-- ==== Sys2Proof/Config.lean ====
section
/-! DEFINITION. What the spec leaves OPEN and an implementation fixes (R8): the five button names and the type Time.
The OPEN port widths are arguments of Machine/Ports.lean; the locus table and the other decided values stand in
Machine/Operands.lean. -/

namespace Sys2Proof.Config

/-- BUTTON_NAME (R45, D8, U11): the five strings are not in the source, so they are free; nothing here says what they
are, nor that they differ from each other (log 5). -/
opaque buttonName : Fin 5 → String

/-- Which labels, besides the one of `Time.origin`, stand for an instant of the type Time (R8, R111, D6, U10): the type
is not in the source, so this is free, and with it how many instants there are (log 6). -/
opaque isInstant : Nat → Bool

end Sys2Proof.Config
end

