-- ==== Sys2Proof/Word.lean ====
section
/-! DEFINITION. The one machine word of the block: a byte of a report or of an LED command (spec/00_scope.md,
section 4). Bit 0 is the least significant bit (R23, log 17). -/

namespace Sys2Proof

/-- A byte, 0 to 255. -/
abbrev Byte := BitVec 8

end Sys2Proof
end

