-- ==== Sys2Proof/Syntax.lean ====
section
/-! DEFINITION. The operands, the ten operations (R3, one constructor per row of spec/opcode_table.json) and the request
format RQ (R49, R50). -/

namespace Sys2Proof

/-- Format IR, the input report (R22, R36): the bytes the collaborator hands over, offset 0 first; its length is the
list's length and has no upper bound (D4). -/
abbrev Report := List Byte

/-- The type Time of the machine's timestamps (R8, R65, R111, D6), OPEN: of its values nothing is known but that equality
is decidable and that there is one. The label tells instants apart and is read by nothing else; which labels are instants
is free (log 6). Every operation over timestamps takes the type as an argument and knows nothing of it. -/
structure Time where
  label : Nat
  isInstant : label = 0 ∨ Config.isInstant label = true
  deriving DecidableEq, Repr

/-- The one instant that can be named, for requests that are written out (log 3, log 6). -/
def Time.origin : Time := ⟨0, .inl rfl⟩

/-- An operand that may be an integer (R49, D12, D13): "the integer n", of any sign and size, or "not an integer"
(1.5, or a value that is no number). Every non-integer is the one value `notInteger` (log 10). -/
inductive Number where
  | integer (n : Int)
  | notInteger
  deriving DecidableEq, Repr

/-- Format LS, the LED state (R47): a partial map from keys to lit (true) or unlit (false), as the list of its entries.
Keys that are no channel may occur (R82). That no integer key occurs twice is `LedState.wf` (log 11). -/
abbrev LedState := List (Number × Bool)

/-- The ten operations (R3), with the operands of R49. -/
inductive Instr where
  | decode (report : Report) (t : Time)
  | reset
  | isValidPress (report : Report) (t : Time)
  | encode (ledState : LedState)
  | allOn
  | allOff
  | single (channel : Number)
  | countUpTo (n : Number)
  | alternating (p : BitVec 1)
  | isValidChannelNumber (x : Number)
  deriving DecidableEq, Repr

/-- Format RQ (R50): the selector `op[3:0]` and the operands by their names in R49. The selected operation reads its own
operands; the others are not looked at. The spec gives operands no bits (R49, R52), so they are typed values (log 3). -/
structure Request where
  op : BitVec 4
  report : Report
  t : Time
  ledState : LedState
  channel : Number
  n : Number
  p : BitVec 1
  x : Number
  deriving DecidableEq, Repr

end Sys2Proof
end

