-- ==== Sys2Proof/WellFormed.lean ====
section
/-! DEFINITION. Which operations are well formed: every value of every operand type is a legal operand (R42, R49, R83,
R102), but that an LED state is a map (R47), so no integer key has two entries. -/

namespace Sys2Proof

/-- The integer a number is, if it is one. -/
def Number.toInt? : Number → Option Int
  | .integer n => some n
  | .notInteger => none

/-- An LED state is a map: no integer key has two entries. `notInteger` stands for many keys (1.5, 2.5), so it may occur
more than once (log 11). -/
def LedState.wf (m : LedState) : Bool :=
  decide ((m.filterMap fun e => e.1.toInt?).Nodup)

/-- Whether an operation is well formed. -/
def Instr.wf : Instr → Bool
  | .decode _ _ => true
  | .reset => true
  | .isValidPress _ _ => true
  | .encode m => LedState.wf m
  | .allOn => true
  | .allOff => true
  | .single _ => true
  | .countUpTo _ => true
  | .alternating _ => true
  | .isValidChannelNumber _ => true

/-- `i` is a well-formed operation. -/
abbrev WellFormed (i : Instr) : Prop := i.wf = true

end Sys2Proof
end

