-- ==== Sys2Proof/Decode.lean ====
section
/-! DEFINITION. The request decoder and encoder: the operation map of R50, selector values 10 to 15 refused by name
(R51). Total on every request. -/

namespace Sys2Proof

/-- Why a request is no operation. -/
inductive Reject where
  /-- The selector is 10 to 15, which select nothing (R51). -/
  | noSuchOperation (op : BitVec 4)
  /-- The ledState operand names one integer key twice, so it is no map (R47, log 11). -/
  | notAMap
  deriving DecidableEq, Repr

/-- The operation a request asks for, by the table of R50. -/
def decodeRequest (r : Request) : Except Reject Instr :=
  match r.op.toNat with
  | 0 => .ok (.decode r.report r.t)
  | 1 => .ok .reset
  | 2 => .ok (.isValidPress r.report r.t)
  | 3 => if LedState.wf r.ledState then .ok (.encode r.ledState) else .error .notAMap
  | 4 => .ok .allOn
  | 5 => .ok .allOff
  | 6 => .ok (.single r.channel)
  | 7 => .ok (.countUpTo r.n)
  | 8 => .ok (.alternating r.p)
  | 9 => .ok (.isValidChannelNumber r.x)
  | _ => .error (.noSuchOperation r.op)

/-- A request with the given selector and every operand empty or zero: what an operand that is not looked at, or to
which the table gives no bits, holds (log 3). -/
def blankRequest (op : BitVec 4) : Request :=
  { op := op, report := [], t := Time.origin, ledState := [], channel := .integer 0, n := .integer 0, p := 0,
    x := .integer 0 }

/-- The selector of an operation (R50, D2). -/
def Instr.selector : Instr → BitVec 4
  | .decode _ _ => 0b0000#4
  | .reset => 0b0001#4
  | .isValidPress _ _ => 0b0010#4
  | .encode _ => 0b0011#4
  | .allOn => 0b0100#4
  | .allOff => 0b0101#4
  | .single _ => 0b0110#4
  | .countUpTo _ => 0b0111#4
  | .alternating _ => 0b1000#4
  | .isValidChannelNumber _ => 0b1001#4

/-- The request that asks for an operation. -/
def encode (i : Instr) : Request :=
  let r := blankRequest i.selector
  match i with
  | .decode report t => { r with report := report, t := t }
  | .reset => r
  | .isValidPress report t => { r with report := report, t := t }
  | .encode m => { r with ledState := m }
  | .allOn => r
  | .allOff => r
  | .single c => { r with channel := c }
  | .countUpTo n => { r with n := n }
  | .alternating p => { r with p := p }
  | .isValidChannelNumber x => { r with x := x }

/-- The request whose selector is the low four of the `nbits` bits `w` of a row of spec/opcode_table.json; the table
gives operands no bits, so they are blank (log 3). -/
def tableRequest (nbits w : Nat) : Request :=
  blankRequest (BitVec.ofNat 4 (w % 2 ^ nbits))

/-- What the decoder reads from a row's bits. -/
def decodeTableWord (nbits w : Nat) : Option Instr :=
  match decodeRequest (tableRequest nbits w) with
  | .ok i => some i
  | .error _ => none

end Sys2Proof
end

