-- ==== Sys2Proof/Machine/State.lean ====
section
/-! DEFINITION. The state of the block: the snapshot of every constructed decoder instance (R10, R112), the
collaborator's pending calls and the results handed back; the results' formats; the reasons a step can stop. -/

namespace Sys2Proof.Machine

/-- The snapshot SNAP of one decoder instance (R10, R11): 20 one-bit cells, controller c in 0..3 by button b in 0..4,
true for pressed; a total function, no cell is ever absent. -/
structure Snapshot where
  cells : Vector (Vector Bool 5) 4
  deriving DecidableEq, Repr

/-- All 20 cells false: a newly constructed instance (R14, R113). -/
def Snapshot.unpressed : Snapshot := ⟨Vector.replicate 4 (Vector.replicate 5 false)⟩

/-- The two actions of an event (R44). -/
inductive Action where
  | pressed
  | released
  deriving DecidableEq, Repr

/-- Format EV, the event record (R44), with timestamps of the type `T` (R8: Time is an argument). -/
structure Event (T : Type) where
  controller : Fin 4
  button : Fin 5
  buttonName : String
  action : Action
  timestamp : T
  deriving DecidableEq, Repr

/-- The two results of DECODE (R60, R100, R101, D9): the one exceptional outcome, which records nothing, or the events. -/
inductive DecodeResult (T : Type) where
  | rejected
  | decoded (events : List (Event T))
  deriving DecidableEq, Repr

/-- What an operation hands back (the result column of R50). -/
inductive Result where
  /-- DECODE -/
  | decode (r : DecodeResult Time)
  /-- RESET, which has no result (R71) -/
  | none
  /-- ISVALIDPRESS and ISVALIDCHANNELNUMBER -/
  | boolean (b : Bool)
  /-- ENCODE: format OR, exactly six bytes, offset 0 first (R48) -/
  | command (bytes : Vector Byte 6)
  /-- the pattern constructors: format LS (R87) -/
  | led (m : LedState)
  deriving DecidableEq, Repr

/-- A result as the collaborator gets it: from the decoder instance it called (counted from 0 in the order of
construction, log 12), or from the encoder. -/
inductive Output where
  | fromDecoder (inst : Nat) (r : Result)
  | fromEncoder (r : Result)
  deriving DecidableEq, Repr

/-- What the collaborator can do to the block (R129), and the reset line of R114. -/
inductive Input where
  /-- construct a decoder instance -/
  | construct
  /-- invoke one operation; a decoder operation is invoked on instance `inst`, an encoder operation on no instance -/
  | request (inst : Nat) (rq : Request)
  /-- the hardware reset line of instance `inst`, where an implementation has one (R114, D22, log 13) -/
  | resetLine (inst : Nat)
  deriving DecidableEq, Repr

/-- The state. The decoder instances, in the order of construction, are `earlier`, then the one whose snapshot is
`snap`, on which the collaborator's last decoder call was made, then `later` (log 12). -/
structure State where
  earlier : List Snapshot
  /-- SNAP of the instance a decoder operation acts on (R10) -/
  snap : Snapshot
  later : List Snapshot
  /-- the collaborator's calls not yet performed, oldest first (R30, log 1) -/
  inputs : List Input
  /-- the results handed back, oldest first (R128, log 2) -/
  outputs : List Output
  deriving DecidableEq, Repr

/-- Why the machine stops with a fault: never. "No fatal conditions originate in the core" (R103), and the one
exceptional outcome, `DecodeResult.rejected`, is a result (R100, R101; log 15). Nothing raises one; safe. -/
inductive Fault where
  deriving DecidableEq, Repr

/-- What the model refuses (R105): its own boundary, not behaviours of the hardware. -/
inductive Refusal where
  /-- An arm of `exec` whose operation has no meaning yet raises it; none does. Safe. -/
  | notModelled (mnemonic : String)
  /-- `fetch`, on a selector 10 to 15 (R51, U5). Safe. -/
  | noSuchOperation (op : BitVec 4)
  /-- `fetch`, on an ENCODE request whose ledState names one key twice (R47, log 11). Safe. -/
  | notAMap
  /-- SINGLE and COUNTUPTO, on an operand that is not an integer (R49, R105, U4). Safe. -/
  | nonIntegerOperand
  /-- `fetch`, on a decoder operation or a reset line of an instance that was never constructed (R117, log 12). Safe. -/
  | noSuchInstance (inst : Nat)
  deriving DecidableEq, Repr

/-- Right after power-on (R113): one instance, newly constructed, nothing asked, nothing answered. -/
def State.reset : State :=
  { earlier := [], snap := Snapshot.unpressed, later := [], inputs := [], outputs := [] }

end Sys2Proof.Machine
end

