-- ==== Sys2Proof/Machine/Operands.lean ====
section
/-! DEFINITION. How every operand and every constant table is read: the report's bytes and bits, the locus table, the
channels of an LED state, the integer operands. -/

namespace Sys2Proof.Machine

/-- The first five bytes of a report, which are all that is consulted (R22); none when it is shorter, and then no byte
is read (R26, R43, R61). -/
def frame? : Report → Option (Vector Byte 5)
  | b0 :: b1 :: b2 :: b3 :: b4 :: _ => some #v[b0, b1, b2, b3, b4]
  | _ => none

/-- An entry of the locus table (R37, C2): a byte offset into the report and a bit offset into that byte. -/
structure Locus where
  byteOffset : Fin 5
  bitOffset : Fin 8
  deriving DecidableEq, Repr

/-- A locus table: one entry per controller and button (R37). -/
abbrev LocusTable := Vector (Vector Locus 5) 4

/-- LOCUS as the spec's table prints it (R39). The spec marks it as its own choice (D3): the source fixes no more of it
than R38 says (DESIGN CHOICE of the spec, log 4). -/
def locus : LocusTable :=
  #v[#v[⟨2, 0⟩, ⟨2, 1⟩, ⟨2, 2⟩, ⟨2, 3⟩, ⟨2, 4⟩],
     #v[⟨2, 5⟩, ⟨2, 6⟩, ⟨2, 7⟩, ⟨3, 0⟩, ⟨3, 1⟩],
     #v[⟨3, 2⟩, ⟨3, 3⟩, ⟨3, 4⟩, ⟨3, 5⟩, ⟨3, 6⟩],
     #v[⟨3, 7⟩, ⟨4, 0⟩, ⟨4, 1⟩, ⟨4, 2⟩, ⟨4, 3⟩]]

/-- The entry of a table for controller `c` and button `b`. -/
def LocusTable.entry (L : LocusTable) (c : Fin 4) (b : Fin 5) : Locus := L[c][b]

/-- `bit(B, i)` at a locus: the byte masked with `1 << i` is not zero (R40). -/
def bit (f : Vector Byte 5) (l : Locus) : Bool :=
  (f[l.byteOffset] &&& (1#8 <<< l.bitOffset.val)) != 0#8

/-- The cell of SNAP for controller `c` and button `b`. -/
def Snapshot.cell (s : Snapshot) (c : Fin 4) (b : Fin 5) : Bool := s.cells[c][b]

/-- The snapshot whose cells are given by a rule. -/
def Snapshot.ofFn (f : Fin 4 → Fin 5 → Bool) : Snapshot :=
  ⟨Vector.ofFn fun c => Vector.ofFn fun b => f c b⟩

/-- The 20 pairs in the enumeration order: controller ascending, then button ascending (R64). -/
def pairs : List (Fin 4 × Fin 5) :=
  (List.finRange 4).flatMap fun c => (List.finRange 5).map fun b => (c, b)

/-- The four channels, ascending. -/
def channels : List (Fin 4) := List.finRange 4

/-- Channel `N` as a key of an LED state. -/
def channelKey (N : Fin 4) : Number := .integer N.val

/-- Channel `N` is lit: it is a key of the map and its value is true; a missing channel is unlit (R80, R81). -/
def isLit (m : LedState) (N : Fin 4) : Bool := m.lookup (channelKey N) == some true

/-- The total LED state with the given channels lit (R87, D15, log 18). -/
def ledOf (lit : Fin 4 → Bool) : LedState := channels.map fun N => (channelKey N, lit N)

/-- LED_OFF and LED_ON (R7), and the channel byte chosen between them (R84). -/
def channelByte (lit : Bool) : Byte := if lit then 0xFF#8 else 0x00#8

/-- A byte of CMD_HEADER (R7, R25). -/
def headerByte : Byte := 0x00#8

/-- `clamp(n, lo, hi)` on integers (spec/00_scope.md, section 4). -/
def clamp (n lo hi : Int) : Int := if n < lo then lo else if n > hi then hi else n

/-- Whether an operation belongs to the ButtonFrameDecoder (R3, the unit column of R50). -/
def usesDecoder : Instr → Bool
  | .decode _ _ => true
  | .reset => true
  | .isValidPress _ _ => true
  | .encode _ => false
  | .allOn => false
  | .allOff => false
  | .single _ => false
  | .countUpTo _ => false
  | .alternating _ => false
  | .isValidChannelNumber _ => false

end Sys2Proof.Machine
end

