-- ==== Sys2Proof/Machine/Flags.lean ====
section
/-! DEFINITION. The block has no flags (R17); its boolean outcomes are results of one operation. Here is how each is
computed. -/

namespace Sys2Proof.Machine

/-- The boolean of ISVALIDPRESS (R72): not rejected and at least one event, of either action. -/
def hasEvent {T : Type} : DecodeResult T → Bool
  | .rejected => false
  | .decoded [] => false
  | .decoded (_ :: _) => true

/-- The boolean of ISVALIDCHANNELNUMBER (R97): an integer in the 1-based range 1 to 4. -/
def isChannelNumber : Number → Bool
  | .integer n => decide (1 ≤ n) && decide (n ≤ 4)
  | .notInteger => false

end Sys2Proof.Machine
end

