-- ==== Sys2Proof/Machine/Ops.lean ====
section
/-! DEFINITION. The shared operations: one DECODE as a pure function of table, names, snapshot, report and timestamp
(R69), the LED command (R80), the accesses to the snapshot, to the instances and to the results. -/

namespace Sys2Proof.Machine

/-- Sampling (R62): every current value, read from one report by the table. -/
def sample (L : LocusTable) (f : Vector Byte 5) : Snapshot :=
  Snapshot.ofFn fun c b => bit f (L.entry c b)

/-- The edge rule (R63): what a previous and a current value of one pair give. -/
def edge (prev cur : Bool) : Option Action :=
  match prev, cur with
  | false, true => some .pressed
  | true, false => some .released
  | false, false => none
  | true, true => none

/-- The event of one pair, if it has one (R63), with the fields of R65. -/
def eventAt {T : Type} (names : Fin 5 → String) (prev cur : Snapshot) (t : T) (p : Fin 4 × Fin 5) : Option (Event T) :=
  (edge (prev.cell p.1 p.2) (cur.cell p.1 p.2)).map fun a => ⟨p.1, p.2, names p.2, a, t⟩

/-- The events between two snapshots, in the enumeration order (R64). -/
def eventsBetween {T : Type} (names : Fin 5 → String) (prev cur : Snapshot) (t : T) : List (Event T) :=
  pairs.filterMap (eventAt names prev cur t)

/-- DECODE as a function (R60, R69) of the table, the names, the snapshot, the report and a timestamp of any type (R8, D6):
the new snapshot and the result. A short report is rejected and changes nothing
(R67); an accepted one replaces the whole snapshot after all 20 compares (R66). -/
def decodeStep {T : Type} (L : LocusTable) (names : Fin 5 → String) (prev : Snapshot) (report : Report) (t : T) :
    Snapshot × DecodeResult T :=
  match frame? report with
  | none => (prev, .rejected)
  | some f => (sample L f, .decoded (eventsBetween names prev (sample L f) t))

/-- The 6-byte LED command of an LED state (R80): the header, then one byte a channel. -/
def commandOf (m : LedState) : Vector Byte 6 :=
  #v[headerByte, headerByte, channelByte (isLit m 0), channelByte (isLit m 1), channelByte (isLit m 2),
     channelByte (isLit m 3)]

/-- Write the whole snapshot of the instance in use (R13: every write is of all 20 cells). -/
def State.setSnap (s : State) (v : Snapshot) : State := { s with snap := v }

/-- Hand back a result of the decoder instance in use. -/
def State.answerDecoder (s : State) (r : Result) : State :=
  { s with outputs := s.outputs ++ [.fromDecoder s.earlier.length r] }

/-- Hand back a result of the encoder. -/
def State.answerEncoder (s : State) (r : Result) : State :=
  { s with outputs := s.outputs ++ [.fromEncoder r] }

/-- Replace the pending calls. -/
def State.setInputs (s : State) (l : List Input) : State := { s with inputs := l }

/-- Every constructed instance's snapshot, in the order of construction. -/
def State.instances (s : State) : List Snapshot := s.earlier ++ s.snap :: s.later

/-- Construct one more instance, all unpressed (R113, R117, R129). -/
def State.construct (s : State) : State := { s with later := s.later ++ [Snapshot.unpressed] }

/-- Turn to instance `k`: the instances stay what they are, `k` becomes the one in use. None if `k` was never
constructed. -/
def State.address (s : State) (k : Nat) : Option State :=
  match s.instances[k]? with
  | none => none
  | some v => some { s with earlier := s.instances.take k, snap := v, later := s.instances.drop (k + 1) }

/-- Run DECODE on the instance in use, with the machine's tables: its effect on SNAP and its result (R60). -/
def State.runDecode (s : State) (report : Report) (t : Time) : State × DecodeResult Time :=
  let r := decodeStep locus Config.buttonName s.snap report t
  (s.setSnap r.1, r.2)

end Sys2Proof.Machine
end

