-- ==== Sys2Proof/Machine/ChannelNumber.lean ====
section
/-! DEFINITION. The channel-number validity check (spec/43_channel_number.md). -/

namespace Sys2Proof.Machine

/-- ISVALIDCHANNELNUMBER (R97): a boolean, for every operand. -/
def execIsValidChannelNumber (x : Number) (s : State) : Host.Outcome State Fault Refusal :=
  .next (s.answerEncoder (.boolean (isChannelNumber x)))

end Sys2Proof.Machine
end

