-- ==== Sys2Proof/Machine/Decoder.lean ====
section
/-! DEFINITION. The ButtonFrameDecoder operations DECODE, RESET, ISVALIDPRESS (spec/40_decoder.md). -/

namespace Sys2Proof.Machine

/-- DECODE (R60): the effect on SNAP, then `Rejected` or the events handed back. -/
def execDecode (report : Report) (t : Time) (s : State) : Host.Outcome State Fault Refusal :=
  let d := s.runDecode report t
  .next (d.1.answerDecoder (.decode d.2))

/-- RESET (R71): every cell false, no result, no event. -/
def execReset (s : State) : Host.Outcome State Fault Refusal :=
  .next ((s.setSnap Snapshot.unpressed).answerDecoder .none)

/-- ISVALIDPRESS (R72): DECODE with its full effect on SNAP, then a boolean in place of its result. -/
def execIsValidPress (report : Report) (t : Time) (s : State) : Host.Outcome State Fault Refusal :=
  let d := s.runDecode report t
  .next (d.1.answerDecoder (.boolean (hasEvent d.2)))

end Sys2Proof.Machine
end

