-- ==== Sys2Proof/Machine/Encoder.lean ====
section
/-! DEFINITION. The LedCommandEncoder operation ENCODE (spec/41_led_encoder.md). -/

namespace Sys2Proof.Machine

/-- ENCODE (R80): the six bytes of the LED state; never fails (R83). -/
def execEncode (m : LedState) (s : State) : Host.Outcome State Fault Refusal :=
  .next (s.answerEncoder (.command (commandOf m)))

end Sys2Proof.Machine
end

