-- ==== Sys2Proof/Machine/Patterns.lean ====
section
/-! DEFINITION. The LED pattern constructors (spec/42_pattern_constructors.md): each hands back a total LED state (R87)
and touches nothing. -/

namespace Sys2Proof.Machine

/-- The channels SINGLE lights (R90): the one that the operand is, none if it is out of range (C4). -/
def singlePattern (channel : Int) (N : Fin 4) : Bool := decide (channel = N.val)

/-- The channels COUNTUPTO lights (R91): those below the clamped operand. -/
def countPattern (n : Int) (N : Fin 4) : Bool := decide ((N.val : Int) < clamp n 0 4)

/-- The channels ALTERNATING lights (R92): those of parity `p`. Which value lights which set is the spec's own decision
(D11, log 8). -/
def parityPattern (p : BitVec 1) (N : Fin 4) : Bool := decide (N.val % 2 = p.toNat)

/-- ALLON (R88). -/
def execAllOn (s : State) : Host.Outcome State Fault Refusal :=
  .next (s.answerEncoder (.led (ledOf fun _ => true)))

/-- ALLOFF (R89). -/
def execAllOff (s : State) : Host.Outcome State Fault Refusal :=
  .next (s.answerEncoder (.led (ledOf fun _ => false)))

/-- SINGLE (R90). A non-integer operand is refused, as R105 says (U4, log 9). -/
def execSingle (channel : Number) (s : State) : Host.Outcome State Fault Refusal :=
  match channel with
  | .integer c => .next (s.answerEncoder (.led (ledOf (singlePattern c))))
  | .notInteger => .refused .nonIntegerOperand

/-- COUNTUPTO (R91). A non-integer operand is refused, as R105 says (U4, log 9). -/
def execCountUpTo (n : Number) (s : State) : Host.Outcome State Fault Refusal :=
  match n with
  | .integer k => .next (s.answerEncoder (.led (ledOf (countPattern k))))
  | .notInteger => .refused .nonIntegerOperand

/-- ALTERNATING (R92). -/
def execAlternating (p : BitVec 1) (s : State) : Host.Outcome State Fault Refusal :=
  .next (s.answerEncoder (.led (ledOf (parityPattern p))))

end Sys2Proof.Machine
end

