-- ==== Sys2Proof/Machine/Dispatch.lean ====
section
/-! DEFINITION. One arm per operation. -/

namespace Sys2Proof.Machine

def exec (i : Instr) (s : State) : Host.Outcome State Fault Refusal :=
  match i with
  | .decode report t => Sys2Proof.Machine.execDecode report t s
  | .reset => Sys2Proof.Machine.execReset s
  | .isValidPress report t => Sys2Proof.Machine.execIsValidPress report t s
  | .encode m => Sys2Proof.Machine.execEncode m s
  | .allOn => Sys2Proof.Machine.execAllOn s
  | .allOff => Sys2Proof.Machine.execAllOff s
  | .single c => Sys2Proof.Machine.execSingle c s
  | .countUpTo n => Sys2Proof.Machine.execCountUpTo n s
  | .alternating p => Sys2Proof.Machine.execAlternating p s
  | .isValidChannelNumber x => Sys2Proof.Machine.execIsValidChannelNumber x s

end Sys2Proof.Machine
end

