-- ==== Sys2Proof/Machine/Fetch.lean ====
section
/-! DEFINITION. What the next step has to do: the collaborator's oldest pending call is taken, and a request is decoded.
The block itself has no fetch (R16): the collaborator selects the operation (log 1). -/

namespace Sys2Proof.Machine

/-- What a step finds to do. -/
inductive Fetch where
  /-- no call is pending: between operations nothing changes (R15) -/
  | idle
  /-- a call that runs no operation is done, leaving this state -/
  | done (s : State)
  /-- this operation runs in this state -/
  | run (i : Instr) (s : State)
  /-- the model refuses the call (R105) -/
  | stop (r : Refusal)
  deriving Repr

/-- The refusal for a request that is no operation (R51, R105). -/
def refusalOf : Reject → Refusal
  | .noSuchOperation op => .noSuchOperation op
  | .notAMap => .notAMap

/-- A decoder operation runs on the instance it was called on; an encoder operation needs none (R112). -/
def fetchRequest (k : Nat) (rq : Request) (s : State) : Fetch :=
  match decodeRequest rq with
  | .error e => .stop (refusalOf e)
  | .ok i =>
    if usesDecoder i then
      match s.address k with
      | some s' => .run i s'
      | none => .stop (.noSuchInstance k)
    else .run i s

/-- The reset line of an instance has RESET's effect on SNAP and no other (R114). -/
def fetchResetLine (k : Nat) (s : State) : Fetch :=
  match s.address k with
  | some s' => .done (s'.setSnap Snapshot.unpressed)
  | none => .stop (.noSuchInstance k)

/-- Take the oldest pending call. -/
def fetch (s : State) : Fetch :=
  match s.inputs with
  | [] => .idle
  | .construct :: rest => .done (s.setInputs rest).construct
  | .request k rq :: rest => fetchRequest k rq (s.setInputs rest)
  | .resetLine k :: rest => fetchResetLine k (s.setInputs rest)

end Sys2Proof.Machine
end

