-- ==== Sys2Proof/Machine/Step.lean ====
section
/-! DEFINITION. One step: one call of the collaborator, whole and at once (R28, D1). -/

namespace Sys2Proof.Machine

/-- One step of the machine. -/
def step (s : State) : Host.Outcome State Fault Refusal :=
  match fetch s with
  | .idle => .next s
  | .done s' => .next s'
  | .run i s' => exec i s'
  | .stop r => .refused r

/-- The state whose next call is the request of a row of the opcode table, made on the instance in use (log 1). -/
def State.withFetchWord (s : State) (nbits w : Nat) : State :=
  s.setInputs (.request s.earlier.length (tableRequest nbits w) :: s.inputs)

end Sys2Proof.Machine
end

