-- ==== Sys2Proof/Machine/Ports.lean ====
section
/-! DEFINITION. The port renditions of operands, snapshot and results (R12, R22, R40, R46, R47, R49, R68, R84, R97).
Every width the spec leaves OPEN is an argument (log 20). -/

namespace Sys2Proof.Machine

/-- The controller of a flat index, k div 5. -/
def controllerOf (k : Fin 20) : Fin 4 := ⟨k.val / 5, by omega⟩

/-- The button of a flat index, k mod 5. -/
def buttonOf (k : Fin 20) : Fin 5 := ⟨k.val % 5, by omega⟩

/-- The flat index 5c + b of a pair (R12, D5). -/
def flatIndex (c : Fin 4) (b : Fin 5) : Fin 20 := ⟨5 * c.val + b.val, by omega⟩

/-- The flat view SNAPV of a snapshot: bit 5c + b is the cell of (c, b) (R12). -/
def snapV (s : Snapshot) : BitVec 20 :=
  BitVec.ofFnLE fun k => s.cell (controllerOf k) (buttonOf k)

/-- CURV under the table of R39, computed from the three bytes as one number (R40, R68). -/
def curV (f : Vector Byte 5) : BitVec 20 :=
  ((f[2].setWidth 24 ||| f[3].setWidth 24 <<< 8 ||| f[4].setWidth 24 <<< 16) &&& 0xFFFFF#24).setWidth 20

/-- PRESS, RELEASE and CHANGED (R68). -/
def pressV (prev cur : BitVec 20) : BitVec 20 := cur &&& ~~~prev

def releaseV (prev cur : BitVec 20) : BitVec 20 := ~~~cur &&& prev

def changedV (prev cur : BitVec 20) : BitVec 20 := cur ^^^ prev

/-- An action as one bit: 1 for pressed, 0 for released (R46, D7). -/
def actionBit : Action → BitVec 1
  | .pressed => 1#1
  | .released => 0#1

/-- The result of DECODE as signals (R46, D7); `ts` means nothing when `rejected`. -/
structure DecodePorts (T : Type) where
  rejected : Bool
  press : BitVec 20
  release : BitVec 20
  ts : T
  deriving DecidableEq, Repr

/-- Whether a list of events holds one of pair `k` with action `a`. -/
def hasEventAt {T : Type} (es : List (Event T)) (a : Action) (k : Fin 20) : Bool :=
  es.any fun e => decide (e.controller = controllerOf k ∧ e.button = buttonOf k ∧ e.action = a)

/-- The signals of a DECODE made at `t` (R46). -/
def decodePorts {T : Type} (r : DecodeResult T) (t : T) : DecodePorts T :=
  match r with
  | .rejected => { rejected := true, press := 0, release := 0, ts := t }
  | .decoded es =>
    { rejected := false, press := BitVec.ofFnLE (hasEventAt es .pressed),
      release := BitVec.ofFnLE (hasEventAt es .released), ts := t }

/-- The event lane `k` of the signals stands for, if any. -/
def laneEvent {T : Type} (names : Fin 5 → String) (o : DecodePorts T) (k : Fin 20) : Option (Event T) :=
  if o.press.getLsbD k.val then
    some ⟨controllerOf k, buttonOf k, names (buttonOf k), .pressed, o.ts⟩
  else if o.release.getLsbD k.val then
    some ⟨controllerOf k, buttonOf k, names (buttonOf k), .released, o.ts⟩
  else none

/-- The result recovered from the signals by scanning the lanes upwards (R46). -/
def scanPorts {T : Type} (names : Fin 5 → String) (o : DecodePorts T) : DecodeResult T :=
  if o.rejected then .rejected else .decoded ((List.finRange 20).filterMap (laneEvent names o))

/-- The effective state LIT of an LED state (R47). -/
def litV (m : LedState) : BitVec 4 := BitVec.ofFnLE (isLit m)

/-- The LED state presented by `led_present` and `led_val` (R47, D14). -/
def ledOfPorts (present val : BitVec 4) : LedState :=
  channels.filterMap fun N => if present.getLsbD N.val then some (channelKey N, val.getLsbD N.val) else none

/-- CMD: the six bytes as one word, byte j at bits 8j+7 to 8j (R84). -/
def cmdWord (bytes : Vector Byte 6) : BitVec 48 :=
  bytes[5] ++ bytes[4] ++ bytes[3] ++ bytes[2] ++ bytes[1] ++ bytes[0]

/-- The multiplexer form of CMD: each bit of LIT replicated eight times, over the header (R84). -/
def cmdMux (lit : BitVec 4) : BitVec 48 :=
  BitVec.fill 8 (lit.getLsbD 3) ++ BitVec.fill 8 (lit.getLsbD 2) ++ BitVec.fill 8 (lit.getLsbD 1) ++
    BitVec.fill 8 (lit.getLsbD 0) ++ 0x0000#16

/-- An argument port, read in two's complement (R49, R54). -/
def numberOfArg {w : Nat} (v : BitVec w) : Number := .integer v.toInt

/-- A signed fixed-point port of `i` integer and `f` fraction bits (R97): an integer iff all fraction bits are 0. -/
def numberOfFixed {i f : Nat} (v : BitVec (i + f)) : Number :=
  if v.toNat % 2 ^ f = 0 then .integer (v.extractLsb' f i).toInt else .notInteger

/-- A report port: a length and the first five bytes (R22, D4). Bytes that are not presented stand as zero; none of
them is ever read (log 20). -/
def reportOfPorts (len : Nat) (bytes : Vector Byte 5) : Report :=
  bytes.toList.take len ++ List.replicate (len - 5) 0#8

/-- The OPEN widths: LEN_WIDTH, ARG_WIDTH, X_INT_BITS, X_FRAC_BITS, TIME_WIDTH (R8). -/
structure PortWidths where
  len : Nat
  arg : Nat
  xInt : Nat
  xFrac : Nat
  time : Nat
  deriving DecidableEq, Repr

/-- The bounds the spec puts on the OPEN widths (R8 and the list of parameters at the end of spec/92_eei_decisions.md):
LEN_WIDTH at least 3, ARG_WIDTH at least 4; X_INT_BITS holds 0 to 5 with a sign, so at least 4; X_FRAC_BITS at least 1;
TIME_WIDTH has none. -/
structure PortWidths.Permitted (w : PortWidths) : Prop where
  len : 3 ≤ w.len
  arg : 4 ≤ w.arg
  xInt : 4 ≤ w.xInt
  xFrac : 1 ≤ w.xFrac

/-- How a timestamp port of `n` bits presents timestamps of the type `T`: OPEN, like the type (R8, D6, log 20). -/
structure TimePort (T : Type) (n : Nat) where
  write : T → BitVec n
  read : BitVec n → T

/-- A request as signals (R22, R47, R49, R50, R92, R97). -/
structure InPorts (w : PortWidths) where
  op : BitVec 4
  len : BitVec w.len
  bytes : Vector Byte 5
  t : BitVec w.time
  ledPresent : BitVec 4
  ledVal : BitVec 4
  channel : BitVec w.arg
  n : BitVec w.arg
  p : BitVec 1
  x : BitVec (w.xInt + w.xFrac)
  deriving DecidableEq, Repr

/-- The request that signals present. -/
def requestOfPorts {w : PortWidths} (clock : TimePort Time w.time) (o : InPorts w) : Request :=
  { op := o.op, report := reportOfPorts o.len.toNat o.bytes, t := clock.read o.t,
    ledState := ledOfPorts o.ledPresent o.ledVal, channel := numberOfArg o.channel, n := numberOfArg o.n, p := o.p,
    x := numberOfFixed o.x }

/-- Signals that present nothing but a selector. -/
def blankPorts (w : PortWidths) (op : BitVec 4) : InPorts w :=
  { op := op, len := 0, bytes := Vector.replicate 5 0#8, t := 0, ledPresent := 0, ledVal := 0, channel := 0, n := 0,
    p := 0, x := 0 }

/-- The first five bytes of a report, the missing ones zero. -/
def firstFive (r : Report) : Vector Byte 5 :=
  #v[r.getD 0 0#8, r.getD 1 0#8, r.getD 2 0#8, r.getD 3 0#8, r.getD 4 0#8]

/-- Channel `N` is a key of the map: its `led_present` bit. -/
def isPresent (m : LedState) (N : Fin 4) : Bool := (m.lookup (channelKey N)).isSome

/-- The two's complement of an integer operand at an argument port. -/
def argOfNumber (w : Nat) : Number → BitVec w
  | .integer k => BitVec.ofInt w k
  | .notInteger => 0

/-- The fixed-point form of an operand; a non-integer is presented by a fraction of 1. -/
def fixedOfNumber (i f : Nat) : Number → BitVec (i + f)
  | .integer k => BitVec.ofInt i k ++ 0#f
  | .notInteger => 0#i ++ 1#f

/-- The signals that ask for an operation. -/
def portsOf (w : PortWidths) (clock : TimePort Time w.time) (i : Instr) : InPorts w :=
  let o := blankPorts w i.selector
  match i with
  | .decode r t => { o with len := BitVec.ofNat _ r.length, bytes := firstFive r, t := clock.write t }
  | .reset => o
  | .isValidPress r t => { o with len := BitVec.ofNat _ r.length, bytes := firstFive r, t := clock.write t }
  | .encode m => { o with ledPresent := BitVec.ofFnLE (isPresent m), ledVal := BitVec.ofFnLE (isLit m) }
  | .allOn => o
  | .allOff => o
  | .single c => { o with channel := argOfNumber _ c }
  | .countUpTo k => { o with n := argOfNumber _ k }
  | .alternating p => { o with p := p }
  | .isValidChannelNumber x => { o with x := fixedOfNumber _ _ x }

/-- Whether a report and its timestamp can be presented whole: no tail past the fifth byte, the length in range, the
timestamp one that its port brings back. -/
def reportFits (w : PortWidths) (clock : TimePort Time w.time) (r : Report) (t : Time) : Bool :=
  decide (r.length ≤ 5) && decide (r.length < 2 ^ w.len) && decide (clock.read (clock.write t) = t)

/-- Whether an integer is in the range of `w` bits of two's complement. -/
def signedFits (w : Nat) (k : Int) : Bool := decide (-(2 : Int) ^ w ≤ 2 * k) && decide (2 * k < (2 : Int) ^ w)

/-- Whether an operand can be presented at an argument port (R49: integers only). -/
def argFits (w : Nat) : Number → Bool
  | .integer k => signedFits w k
  | .notInteger => false

/-- Whether an operand can be presented at the fixed-point port: a non-integer needs a fraction bit. -/
def fixedFits (i f : Nat) : Number → Bool
  | .integer k => signedFits i k
  | .notInteger => decide (0 < f)

/-- Whether signals of these widths can present an operation: for ENCODE, the keys are channels in ascending order (R47:
a key outside 0..3 cannot be presented). -/
def presentable (w : PortWidths) (clock : TimePort Time w.time) : Instr → Bool
  | .decode r t => reportFits w clock r t
  | .reset => true
  | .isValidPress r t => reportFits w clock r t
  | .encode m => decide (List.Sublist (m.map Prod.fst) (channels.map channelKey))
  | .allOn => true
  | .allOff => true
  | .single c => argFits w.arg c
  | .countUpTo k => argFits w.arg k
  | .alternating _ => true
  | .isValidChannelNumber x => fixedFits w.xInt w.xFrac x

end Sys2Proof.Machine
end

