-- ==== Sys2Proof/Safety.lean ====
section
/-! DEFINITION. The terms in which claims are made: what the source fixes of a locus table (S1 to S7 of R38), the results
the block may hand back, calls the model serves (LP-NOREFUSE of R130), and runs. -/

namespace Sys2Proof.Machine

/-- What the source fixes of the contents of a locus table: S1 to S7 of R38, the premise LP-TABLE of R130. -/
structure LocusTable.MeetsSource (L : LocusTable) : Prop where
  s1 : ∀ c b, 2 ≤ (L.entry c b).byteOffset.val ∧ (L.entry c b).byteOffset.val ≤ 4
  s2 : ∀ b, (L.entry 0 b).byteOffset = 2
  s3 : (∀ b, (L.entry 1 b).byteOffset = 2 ∨ (L.entry 1 b).byteOffset = 3) ∧
    (∃ b, (L.entry 1 b).byteOffset = 2) ∧ ∃ b, (L.entry 1 b).byteOffset = 3
  s4 : ∀ b, (L.entry 2 b).byteOffset = 3
  s5 : ∀ l, (∃ b, L.entry 3 b = l) ↔ l = ⟨3, 7⟩ ∨ l = ⟨4, 0⟩ ∨ l = ⟨4, 1⟩ ∨ l = ⟨4, 2⟩ ∨ l = ⟨4, 3⟩
  s6 : L.entry 0 0 = ⟨2, 0⟩
  s7 : ∀ c b c' b', L.entry c b = L.entry c' b' → c = c' ∧ b = b'

/-- The place of an event in the enumeration order (R64). -/
def Event.place {T : Type} (e : Event T) : Nat := 5 * e.controller.val + e.button.val

/-- A list of events DECODE may hand back: strictly in the enumeration order (R64), each with its button's name (R45). -/
def eventsLegal {T : Type} (es : List (Event T)) : Prop :=
  es.Pairwise (fun e e' => e.place < e'.place) ∧ ∀ e ∈ es, e.buttonName = Config.buttonName e.button

/-- A command ENCODE may hand back (R48): the header, then bytes that are 0x00 or 0xFF. -/
def commandLegal (bytes : Vector Byte 6) : Prop :=
  bytes[0] = 0x00#8 ∧ bytes[1] = 0x00#8 ∧
    ∀ N : Fin 4, bytes[2 + N.val] = 0x00#8 ∨ bytes[2 + N.val] = 0xFF#8

/-- An LED state a pattern constructor may hand back (R87): total, the four channels and no other key. -/
def ledLegal (m : LedState) : Prop := m.map Prod.fst = channels.map channelKey

/-- What one of `n` decoder instances, or the encoder, may hand back (the result column of R50). -/
def Output.legal (n : Nat) : Output → Prop
  | .fromDecoder k (.decode .rejected) => k < n
  | .fromDecoder k (.decode (.decoded es)) => k < n ∧ eventsLegal es
  | .fromDecoder k .none => k < n
  | .fromDecoder k (.boolean _) => k < n
  | .fromDecoder _ (.command _) => False
  | .fromDecoder _ (.led _) => False
  | .fromEncoder (.decode _) => False
  | .fromEncoder .none => False
  | .fromEncoder (.boolean _) => True
  | .fromEncoder (.command bytes) => commandLegal bytes
  | .fromEncoder (.led m) => ledLegal m

/-- Every result handed back so far is one the block may hand back. -/
def State.OutputsLegal (s : State) : Prop := ∀ o ∈ s.outputs, o.legal s.instances.length

/-- The operand of SINGLE and COUNTUPTO is an integer: the only operand condition of any operation (R105). -/
def integerOperands : Instr → Bool
  | .decode _ _ => true
  | .reset => true
  | .isValidPress _ _ => true
  | .encode _ => true
  | .allOn => true
  | .allOff => true
  | .single c => c.toInt?.isSome
  | .countUpTo n => n.toInt?.isSome
  | .alternating _ => true
  | .isValidChannelNumber _ => true

/-- A request the model serves when `n` instances have been constructed: it selects an operation, with operands in its
domain, and a decoder operation is called on one of them. -/
def requestServed (n k : Nat) (rq : Request) : Bool :=
  match decodeRequest rq with
  | .error _ => false
  | .ok i => integerOperands i && (!usesDecoder i || decide (k < n))

/-- Calls the model serves, one after the other, from `n` instances. -/
def inputsServed : Nat → List Input → Bool
  | _, [] => true
  | n, .construct :: rest => inputsServed (n + 1) rest
  | n, .request k rq :: rest => requestServed n k rq && inputsServed n rest
  | n, .resetLine k :: rest => decide (k < n) && inputsServed n rest

/-- The pending calls hold nothing that is refused: LP-NOREFUSE of R130. -/
def State.Servable (s : State) : Prop := inputsServed s.instances.length s.inputs = true

/-- The current value of a pair in a report (R40, R62), in the other form spec/00_scope.md gives of `bit(B, i)`: bit i of
the byte at offset B. -/
def currentValue (L : LocusTable) (r : Report) (c : Fin 4) (b : Fin 5) : Bool :=
  (r.getD (L.entry c b).byteOffset.val 0#8).getLsbD (L.entry c b).bitOffset.val

/-- The events of one pair among the events of a DECODE. -/
def eventsOfPair {T : Type} (es : List (Event T)) (c : Fin 4) (b : Fin 5) : List (Event T) :=
  es.filter fun e => decide (e.controller = c ∧ e.button = b)

/-- What one operation does to the snapshot of the instance it is called on, and what that instance hands back, as a
function of the snapshot and the operation alone (R69); an encoder operation does nothing there. -/
def operationEffect (v : Snapshot) : Instr → Snapshot × List Result
  | .decode r t =>
    let d := decodeStep locus Config.buttonName v r t
    (d.1, [.decode d.2])
  | .reset => (Snapshot.unpressed, [.none])
  | .isValidPress r t =>
    let d := decodeStep locus Config.buttonName v r t
    (d.1, [.boolean (hasEvent d.2)])
  | .encode _ => (v, [])
  | .allOn => (v, [])
  | .allOff => (v, [])
  | .single _ => (v, [])
  | .countUpTo _ => (v, [])
  | .alternating _ => (v, [])
  | .isValidChannelNumber _ => (v, [])

/-- What one call does to instance `k` whose snapshot is `v`: nothing, unless it is made on that instance. -/
def callEffect (k : Nat) (v : Snapshot) : Input → Snapshot × List Result
  | .construct => (v, [])
  | .request j rq =>
    match decodeRequest rq with
    | .ok i => if j = k then operationEffect v i else (v, [])
    | .error _ => (v, [])
  | .resetLine j => if j = k then (Snapshot.unpressed, []) else (v, [])

/-- What a list of calls does to instance `k` alone: its last snapshot and its results, oldest first. -/
def alone (k : Nat) : Snapshot → List Input → Snapshot × List Result
  | v, [] => (v, [])
  | v, c :: rest =>
    let e := callEffect k v c
    let r := alone k e.1 rest
    (r.1, e.2 ++ r.2)

/-- The results instance `k` handed back, oldest first. -/
def resultsOf (k : Nat) (l : List Output) : List Result :=
  l.filterMap fun o =>
    match o with
    | .fromDecoder j r => if j = k then some r else none
    | .fromEncoder _ => none

end Sys2Proof.Machine
end

