-- ==== Sys2Proof/Certificates/Slice0/Obligations.lean ====
section
/-! DEFINITION. The statements for the provers. Where a statement rests on a decision that the spec marks as its own
(the locus table D3, the selector numbers D2, the parity convention D11, the injected timestamp D6) or on a convention of
this model (the queue of calls, log 1; the list of results, log 2; the addressing of instances, log 12), its docstring
says so. A statement over every `LocusTable` needs no such choice, and one over every type `T` of timestamps none of what
a timestamp is (R8, log 6); that all events of a call carry its one operand `t` is D6 (log 7) all the same. -/

open Sys2Proof Sys2Proof.Machine

/-! ## Reset and the calls of the collaborator -/

/-- R14: every cell is false in a newly constructed instance (the one of `State.reset` and each further one), and after
RESET. -/
def Obligations.ResetValueIsAllUnpressed : Prop :=
  (∀ c b, State.reset.snap.cell c b = false) ∧ snapV State.reset.snap = 0x00000#20 ∧
  (∀ s : State, ∃ v, s.construct.instances = s.instances ++ [v] ∧ ∀ c b, v.cell c b = false) ∧
  ∀ s : State, ∃ t, exec .reset s = .next t ∧ (∀ c b, t.snap.cell c b = false) ∧ snapV t.snap = 0x00000#20

/-- A step takes the oldest pending call (log 1); when it is a request that decodes, it runs exactly the decoded operation:
a decoder operation on the instance the call names (log 12), an encoder operation on no instance. -/
def Obligations.StepRunsTheDecodedRequest : Prop :=
  ∀ (s : State) (k : Nat) (rq : Request) (rest : List Input) (i : Instr),
    s.inputs = .request k rq :: rest → decodeRequest rq = .ok i →
    (usesDecoder i = false → step s = exec i { s with inputs := rest }) ∧
    (∀ v, usesDecoder i = true → s.instances[k]? = some v →
      step s = exec i { s with
        earlier := s.instances.take k, snap := v, later := s.instances.drop (k + 1), inputs := rest }) ∧
    (usesDecoder i = true → s.instances[k]? = none → step s = .refused (.noSuchInstance k))

/-- The steps that run no operation: with no call pending nothing changes; constructing adds an all-unpressed instance;
a reset line clears the snapshot of its instance and hands back nothing (logs 12, 13). -/
def Obligations.StepsWithoutAnOperation : Prop :=
  (∀ s : State, s.inputs = [] → step s = .next s) ∧
  (∀ (s : State) (rest : List Input), s.inputs = .construct :: rest →
    step s = .next { s with later := s.later ++ [Snapshot.unpressed], inputs := rest }) ∧
  (∀ (s : State) (k : Nat) (v : Snapshot) (rest : List Input), s.inputs = .resetLine k :: rest →
    s.instances[k]? = some v →
    step s = .next { s with
      earlier := s.instances.take k, snap := Snapshot.unpressed, later := s.instances.drop (k + 1), inputs := rest }) ∧
  (∀ (s : State) (k : Nat) (rest : List Input), s.inputs = .resetLine k :: rest → s.instances[k]? = none →
    step s = .refused (.noSuchInstance k))

/-- The snapshot of an instance changes only in a step that performs a DECODE, RESET or ISVALIDPRESS request (selectors
0, 1, 2 of D2) on that instance, or its reset line (which R114 takes for RESET). -/
def Obligations.OnlyCallsOnAnInstanceChangeIt : Prop :=
  ∀ (s t : State) (k : Nat) (v : Snapshot), step s = .next t → s.instances[k]? = some v → t.instances[k]? ≠ some v →
    ∃ rest, (∃ rq, s.inputs = .request k rq :: rest ∧ rq.op.toNat < 3) ∨ s.inputs = .resetLine k :: rest

/-- Selector values 10 to 15 are refused by name, whatever the operands and the instance (D21). -/
def Obligations.UnusedSelectorsAreRefused : Prop :=
  ∀ (s : State) (k : Nat) (rq : Request) (rest : List Input), 10 ≤ rq.op.toNat →
    decodeRequest rq = .error (.noSuchOperation rq.op) ∧
    (s.inputs = .request k rq :: rest → step s = .refused (.noSuchOperation rq.op))

/-- Requests written out from the operation map (selector numbers of D2) decode to the operations they ask for. -/
def Obligations.WrittenRequestsDecode : Prop :=
  (∀ t : Time, decodeRequest { blankRequest 0b0000#4 with report := [0, 0, 1, 0, 240], t := t } =
    .ok (.decode [0, 0, 1, 0, 240] t)) ∧
  decodeRequest (blankRequest 0b0001#4) = .ok .reset ∧
  decodeRequest { blankRequest 0b0011#4 with ledState := [(.integer 3, true)] } = .ok (.encode [(.integer 3, true)]) ∧
  decodeRequest { blankRequest 0b0110#4 with channel := .integer (-1) } = .ok (.single (.integer (-1))) ∧
  decodeRequest { blankRequest 0b1000#4 with p := 1 } = .ok (.alternating 1) ∧
  decodeRequest { blankRequest 0b1001#4 with x := .notInteger } = .ok (.isValidChannelNumber .notInteger)

/-- The request encoder and decoder agree: a well-formed operation comes back from its request, and whatever decodes is
well formed and has the selector it was asked by. -/
def Obligations.RequestsEncodeAndDecode : Prop :=
  (∀ i : Instr, WellFormed i → decodeRequest (encode i) = .ok i) ∧
  ∀ (rq : Request) (i : Instr), decodeRequest rq = .ok i → WellFormed i ∧ i.selector = rq.op ∧ (encode i).op = rq.op

/-- At the ports: for all widths, every well-formed operation that signals of those widths can present comes back, with
every operand at every value, from the signals that ask for it (two's complement for the integers, fixed point for x,
`led_present` and `led_val` for the LED state, any rendition of the timestamps; the renditions are the spec's own, D2, D4,
D6, D12 to D14). -/
def Obligations.PortsEncodeAndDecode : Prop :=
  ∀ (w : PortWidths) (clock : TimePort Time w.time) (i : Instr), WellFormed i → presentable w clock i = true →
    decodeRequest (requestOfPorts clock (portsOf w clock i)) = .ok i

/-- Why the spec bounds the OPEN widths (R8, D4, D12, D13): at every permitted width the ports present every report of up
to five bytes, the integers -1 to 5 to SINGLE and COUNTUPTO, and 0 to 5 and a non-integer to ISVALIDCHANNELNUMBER. -/
def Obligations.PermittedWidthsPresentEveryCase : Prop :=
  ∀ (w : PortWidths) (clock : TimePort Time w.time), w.Permitted →
    (∀ (r : Report) (t : Time), r.length ≤ 5 → clock.read (clock.write t) = t →
      presentable w clock (.decode r t) = true ∧ presentable w clock (.isValidPress r t) = true) ∧
    (∀ k : Int, -1 ≤ k → k ≤ 5 →
      presentable w clock (.single (.integer k)) = true ∧ presentable w clock (.countUpTo (.integer k)) = true) ∧
    (∀ k : Int, 0 ≤ k → k ≤ 5 → presentable w clock (.isValidChannelNumber (.integer k)) = true) ∧
    presentable w clock (.isValidChannelNumber .notInteger) = true

/-- A report of any length that the length port can carry decodes from its length and its first five bytes alone as the
report itself does (D4), for every table and every snapshot. -/
def Obligations.PortReportsLoseNothing : Prop :=
  ∀ (T : Type) (L : LocusTable) (names : Fin 5 → String) (v : Snapshot) (r : Report) (t : T),
    decodeStep L names v (reportOfPorts r.length (firstFive r)) t = decodeStep L names v r t

/-! ## DECODE -/

/-- R61, R43: the length alone decides. -/
def Obligations.LengthAloneDecidesAcceptance : Prop :=
  ∀ (T : Type) (L : LocusTable) (names : Fin 5 → String) (v : Snapshot) (r : Report) (t : T),
    ((decodeStep L names v r t).2 = .rejected ↔ r.length < 5) ∧
    (5 ≤ r.length → ∃ es, (decodeStep L names v r t).2 = .decoded es) ∧
    (5 ≤ r.length → decodeStep L names v (r.take 5) t = decodeStep L names v r t) ∧
    (DecodeResult.rejected : DecodeResult T) ≠ .decoded []

/-- R67: a rejected DECODE changes nothing but that `Rejected` is handed back; its `t` is discarded; the next DECODE
compares as if it had not arrived. -/
def Obligations.RejectedDecodeChangesNothing : Prop :=
  ∀ (s : State) (r : Report) (t : Time), r.length < 5 →
    exec (.decode r t) s =
      .next { s with outputs := s.outputs ++ [.fromDecoder s.earlier.length (.decode .rejected)] } ∧
    (∀ t', exec (.decode r t') s = exec (.decode r t) s) ∧
    ∀ (T : Type) (L : LocusTable) (names : Fin 5 → String) (v : Snapshot) (r' : Report) (u t' : T),
      decodeStep L names (decodeStep L names v r u).1 r' t' = decodeStep L names v r' t'

/-- DECODE completes for every report, every snapshot and every timestamp: on the machine it is `decodeStep` with the
machine's tables (D3, log 5), and changes nothing but the snapshot in use and the results. -/
def Obligations.DecodeCompletes : Prop :=
  ∀ (s : State) (r : Report) (t : Time),
    exec (.decode r t) s = .next { s with
      snap := (decodeStep locus Config.buttonName s.snap r t).1,
      outputs := s.outputs ++
        [.fromDecoder s.earlier.length (.decode (decodeStep locus Config.buttonName s.snap r t).2)] }

/-- R62: an accepted DECODE leaves in every cell the bit of the report at that cell's locus, whatever the table, the
snapshot and the timestamp were. -/
def Obligations.AcceptedDecodeReplacesTheSnapshot : Prop :=
  ∀ (T : Type) (L : LocusTable) (names : Fin 5 → String) (v : Snapshot) (r : Report) (t : T), 5 ≤ r.length →
    (∀ c b, (decodeStep L names v r t).1.cell c b = currentValue L r c b) ∧
    ∀ v' (t' : T), (decodeStep L names v' r t').1 = (decodeStep L names v r t).1

/-- R63, R66: the edge rule, for each pair on its own, against the old snapshot, which is then replaced whole by the
current values. -/
def Obligations.EdgesMakeTheEvents : Prop :=
  ∀ (T : Type) (L : LocusTable) (names : Fin 5 → String) (v : Snapshot) (r : Report) (t : T), 5 ≤ r.length →
    ∃ v' es, decodeStep L names v r t = (v', .decoded es) ∧ (∀ c b, v'.cell c b = currentValue L r c b) ∧
      ∀ c b, (eventsOfPair es c b).map Event.action =
        if v.cell c b = false ∧ currentValue L r c b = true then [.pressed]
        else if v.cell c b = true ∧ currentValue L r c b = false then [.released]
        else []

/-- R64: the events stand in the enumeration order, whatever the table and whichever bits changed. -/
def Obligations.EventsStandInPairOrder : Prop :=
  ∀ (T : Type) (L : LocusTable) (names : Fin 5 → String) (v : Snapshot) (r : Report) (t : T) (es : List (Event T)),
    (decodeStep L names v r t).2 = .decoded es →
    ∀ (i j : Nat) (hi : i < es.length) (hj : j < es.length),
      i < j ↔ es[i].controller.val < es[j].controller.val ∨
        (es[i].controller = es[j].controller ∧ es[i].button.val < es[j].button.val)

/-- The fields of an event: its button's name, by the button alone (D8), and the operand `t` of the DECODE (D6, log 7). -/
def Obligations.EventsCarryNameAndTimestamp : Prop :=
  ∀ (T : Type) (L : LocusTable) (names : Fin 5 → String) (v : Snapshot) (r : Report) (t : T) (es : List (Event T)),
    (decodeStep L names v r t).2 = .decoded es → ∀ e ∈ es, e.buttonName = names e.button ∧ e.timestamp = t

/-- The timestamp decides nothing: another `t` gives the same snapshot and the same events, each with that `t` (D6). -/
def Obligations.TimestampsDecideNothing : Prop :=
  ∀ (T : Type) (L : LocusTable) (names : Fin 5 → String) (v : Snapshot) (r : Report) (t t' : T),
    (decodeStep L names v r t').1 = (decodeStep L names v r t).1 ∧
    ((decodeStep L names v r t).2 = .rejected → (decodeStep L names v r t').2 = .rejected) ∧
    ∀ es, (decodeStep L names v r t).2 = .decoded es →
      (decodeStep L names v r t').2 = .decoded (es.map fun e => { e with timestamp := t' })

/-- R74: the properties P1 to P4 the source states of the decoder, for every table. The fields of P2's events that R74
does not speak of, name and timestamp, are those of D8 and D6 (logs 5, 7). -/
def Obligations.SourcePropertiesOfTheDecoder : Prop :=
  ∀ (T : Type) (L : LocusTable) (names : Fin 5 → String) (v : Snapshot),
    (∀ r (t : T), 5 ≤ r.length → (∀ c b, currentValue L r c b = v.cell c b) → decodeStep L names v r t = (v, .decoded [])) ∧
    (∀ (r r' : Report) (t t' t'' : T) c b, 5 ≤ r.length → 5 ≤ r'.length →
      currentValue L r c b = false → currentValue L r' c b = true →
      (∀ c' b', (c', b') ≠ (c, b) → currentValue L r' c' b' = currentValue L r c' b') →
      ∀ v1 v2, v1 = (decodeStep L names v r t).1 → v2 = (decodeStep L names v1 r' t').1 →
        (decodeStep L names v1 r' t').2 = .decoded [⟨c, b, names b, .pressed, t'⟩] ∧
        (decodeStep L names v2 r t'').2 = .decoded [⟨c, b, names b, .released, t''⟩]) ∧
    (∀ r (t : T) es, (decodeStep L names v r t).2 = .decoded es → es.Pairwise fun e e' => e.place < e'.place) ∧
    ∀ r (t : T), r.length < 5 → decodeStep L names v r t = (v, .rejected)

/-- Flipping the bit of one locus in a report, for a table whose loci are distinct, flips the current value of that pair
and of no other (S7 of R38, which the spec derives). -/
def Obligations.FlippingALocusFlipsOnePair : Prop :=
  ∀ (L : LocusTable) (r : Report) (c c' : Fin 4) (b b' : Fin 5), L.MeetsSource → 5 ≤ r.length →
    currentValue L
        (r.modify (L.entry c b).byteOffset.val fun x => x ^^^ (1#8 <<< (L.entry c b).bitOffset.val)) c' b' =
      if c' = c ∧ b' = b then !currentValue L r c' b' else currentValue L r c' b'

/-- Bytes 0 and 1, bits 4 to 7 of byte 4 and every byte past the fifth are ignored, for every table that meets S1 to S7:
two long enough reports that agree elsewhere decode alike. -/
def Obligations.ReservedBitsAreIgnored : Prop :=
  ∀ (T : Type) (L : LocusTable) (names : Fin 5 → String) (v : Snapshot) (r r' : Report) (t : T), L.MeetsSource →
    5 ≤ r.length → 5 ≤ r'.length → r.getD 2 0 = r'.getD 2 0 → r.getD 3 0 = r'.getD 3 0 →
    (r.getD 4 0).extractLsb' 0 4 = (r'.getD 4 0).extractLsb' 0 4 →
    decodeStep L names v r t = decodeStep L names v r' t

/-- The table the spec adopts (D3) meets all that the source fixes, and is the formula of R39. -/
def Obligations.AdoptedTableMeetsTheSource : Prop :=
  locus.MeetsSource ∧
  ∀ c b, (locus.entry c b).byteOffset.val = 2 + (5 * c.val + b.val) / 8 ∧
    (locus.entry c b).bitOffset.val = (5 * c.val + b.val) % 8

/-- Every table that meets S1 to S7 fills bytes 2 and 3 and bits 0 to 3 of byte 4 (the count the spec derives in R38), so
that a report with all of them set, read by an unpressed instance, gives the 20 presses in pair order (R63, R64). That
these 20 events of one call carry one timestamp is the spec's decision D6 (log 7), which R65 has a claim name as its
premise; that a name goes by the button alone is D8 (log 5). -/
def Obligations.EveryTableFillsTheLocusBits : Prop :=
  ∀ (T : Type) (L : LocusTable) (names : Fin 5 → String) (t : T) (b0 b1 b4 : Byte) (tail : List Byte), L.MeetsSource →
    (∀ l : Locus, l.byteOffset = 2 ∨ l.byteOffset = 3 ∨ (l.byteOffset = 4 ∧ l.bitOffset.val < 4) →
      ∃ c b, L.entry c b = l) ∧
    (b4.extractLsb' 0 4 = 0xF#4 →
      (decodeStep L names Snapshot.unpressed (b0 :: b1 :: 0xFF#8 :: 0xFF#8 :: b4 :: tail) t).2 =
        .decoded (pairs.map fun p => ⟨p.1, p.2, names p.2, .pressed, t⟩))

/-- DECODE is the bitmask comparator and edge detector on 20-bit vectors: PRESS, RELEASE and the number of events for
every table, and CURV from the three bytes for the table of D3 (log 4). The one `ts` of a call is D6 (log 7). -/
def Obligations.DecodeIsTheVectorForm : Prop :=
  ∀ (T : Type) (names : Fin 5 → String) (v : Snapshot) (r : Report) (t : T), 5 ≤ r.length →
    (∀ (L : LocusTable) (v' : Snapshot) (es : List (Event T)), decodeStep L names v r t = (v', .decoded es) →
      decodePorts (.decoded es) t =
        ⟨false, pressV (snapV v) (snapV v'), releaseV (snapV v) (snapV v'), t⟩ ∧
      es.length = ((List.finRange 20).filter fun k => (changedV (snapV v) (snapV v')).getLsbD k.val).length) ∧
    snapV (decodeStep locus names v r t).1 = curV (firstFive r)

/-- The result of DECODE is recovered from its signals by the upward scan; no pair is both pressed and released; and the
action of an event as one bit (1 for pressed, 0 for released) is the PRESS bit of its pair (D7, log 20). The one `ts` of a
call is D6 (log 7), the name by the button D8 (log 5). -/
def Obligations.PortScanRecoversTheResult : Prop :=
  ∀ (T : Type) (L : LocusTable) (names : Fin 5 → String) (v : Snapshot) (r : Report) (t : T),
    scanPorts names (decodePorts (decodeStep L names v r t).2 t) = (decodeStep L names v r t).2 ∧
    (decodePorts (decodeStep L names v r t).2 t).press &&& (decodePorts (decodeStep L names v r t).2 t).release = 0 ∧
    (∀ es, (decodeStep L names v r t).2 = .decoded es → ∀ e ∈ es, actionBit e.action =
      BitVec.ofBool ((decodePorts (.decoded es) t).press.getLsbD (flatIndex e.controller e.button).val)) ∧
    ∀ a, actionBit a = if a = .pressed then 1#1 else 0#1

/-- The second sight of an accepted report is silent, whether DECODE or ISVALIDPRESS saw it first: DECODE then hands back
no event and leaves the snapshot as it is. -/
def Obligations.SecondSightIsSilent : Prop :=
  ∀ (s u : State) (r : Report) (t t' : Time), 5 ≤ r.length →
    exec (.decode r t) s = .next u ∨ exec (.isValidPress r t) s = .next u →
    exec (.decode r t') u =
      .next { u with outputs := u.outputs ++ [.fromDecoder u.earlier.length (.decode (.decoded []))] }

/-! ## RESET and ISVALIDPRESS -/

/-- RESET clears the snapshot in use, hands back that it has no result (D10), and changes nothing else. -/
def Obligations.ResetClearsTheSnapshot : Prop :=
  ∀ s : State, exec .reset s = .next { s with
    snap := Snapshot.unpressed, outputs := s.outputs ++ [.fromDecoder s.earlier.length .none] }

/-- After RESET (or construction) an accepted report gives one press for every button it shows down and nothing else,
whatever the table. That the presses of one call carry one timestamp is the spec's decision D6 (log 7), which R65 has a
claim name as its premise; that a name goes by the button alone is D8 (log 5). -/
def Obligations.FirstReportGivesOnlyPresses : Prop :=
  ∀ (T : Type) (L : LocusTable) (names : Fin 5 → String) (r : Report) (t : T), 5 ≤ r.length →
    (decodeStep L names Snapshot.unpressed r t).2 =
      .decoded ((pairs.filter fun p => currentValue L r p.1 p.2).map fun p => ⟨p.1, p.2, names p.2, .pressed, t⟩)

/-- R72: ISVALIDPRESS has DECODE's effect on the snapshot and hands back whether DECODE would hand back an event; `t` is
dropped. In vector form the answer is "not rejected and CHANGED is not 0". With the rule's worked example, whose byte and
bit are those of the table of D3 (log 4). -/
def Obligations.IsValidPressAnswersAndMutates : Prop :=
  (∀ (s : State) (r : Report) (t : Time), ∃ valid,
    exec (.isValidPress r t) s = .next { s with
      snap := (decodeStep locus Config.buttonName s.snap r t).1,
      outputs := s.outputs ++ [.fromDecoder s.earlier.length (.boolean valid)] } ∧
    (valid = true ↔ ∃ es, es ≠ [] ∧ (decodeStep locus Config.buttonName s.snap r t).2 = .decoded es) ∧
    (∀ t', exec (.isValidPress r t') s = exec (.isValidPress r t) s) ∧
    (r.length < 5 → valid = false) ∧
    (valid = true ↔ 5 ≤ r.length ∧
      changedV (snapV s.snap) (snapV (decodeStep locus Config.buttonName s.snap r t).1) ≠ 0)) ∧
  ∀ (s : State) (t t' : Time), s.snap = Snapshot.unpressed →
    ∃ u w, exec (.isValidPress [0, 0, 1, 0, 240] t) s = .next u ∧
      u.outputs = s.outputs ++ [.fromDecoder s.earlier.length (.boolean true)] ∧ u.snap.cell 0 0 = true ∧
      exec (.isValidPress [0, 0, 1, 0, 240] t') u = .next w ∧
      w.outputs = u.outputs ++ [.fromDecoder u.earlier.length (.boolean false)]

/-! ## ENCODE -/

/-- R80, R81: ENCODE completes for every LED state and changes nothing but the results; the command is the header and, for
each channel, 0xFF exactly when the channel is a key with value true; with the source's own examples. -/
def Obligations.EncodeGivesTheCommand : Prop :=
  (∀ (s : State) (m : LedState), ∃ bytes : Vector Byte 6,
    exec (.encode m) s = .next { s with outputs := s.outputs ++ [.fromEncoder (.command bytes)] } ∧
    bytes[0] = 0x00#8 ∧ bytes[1] = 0x00#8 ∧
    ∀ N : Fin 4, bytes[2 + N.val] = if m.lookup (.integer N.val) = some true then 0xFF#8 else 0x00#8) ∧
  commandOf [(.integer 0, true), (.integer 1, false), (.integer 2, true), (.integer 3, false)] =
    #v[0x00, 0x00, 0xFF, 0x00, 0xFF, 0x00] ∧
  commandOf [] = #v[0x00, 0x00, 0x00, 0x00, 0x00, 0x00] ∧
  commandOf [(.integer 0, false), (.integer 1, false), (.integer 2, false), (.integer 3, false)] = commandOf []

/-- A key that is no channel is ignored: it changes no byte, and is not wrapped or clamped onto a channel. -/
def Obligations.ForeignKeysAreIgnored : Prop :=
  ∀ (s : State) (m : LedState),
    exec (.encode m) s = exec (.encode (m.filter fun e => decide (∃ N : Fin 4, e.1 = .integer N.val))) s

/-- An LED state is a map: the order in which its entries are listed decides nothing (log 11). -/
def Obligations.EncodeReadsAMap : Prop :=
  ∀ (s : State) (m m' : LedState), LedState.wf m = true → m.Perm m' → exec (.encode m) s = exec (.encode m') s

/-- The commands are exactly the 16 of the format, and two LED states have one command exactly when they have one
effective state LIT. -/
def Obligations.CommandsAreTheSixteen : Prop :=
  (∀ m, commandLegal (commandOf m)) ∧
  (∀ bytes, commandLegal bytes → ∃ m, LedState.wf m = true ∧ commandOf m = bytes) ∧
  ∀ m m', commandOf m = commandOf m' ↔ litV m = litV m'

/-- The packed command is the four-way multiplexer over LIT (D14). -/
def Obligations.CommandIsTheMultiplexer : Prop :=
  ∀ m, cmdWord (commandOf m) = cmdMux (litV m)

/-- The LED state at the ports is lit where a channel is both present and true (D14). -/
def Obligations.PortLedStateIsPresentAndTrue : Prop :=
  ∀ present val : BitVec 4, litV (ledOfPorts present val) = present &&& val

/-! ## The pattern constructors and the channel-number check -/

/-- R88, R89: ALLON and ALLOFF complete, hand back their constants and change nothing else; their encodings. -/
def Obligations.ConstantPatterns : Prop :=
  ∃ on off : LedState,
    on = [(.integer 0, true), (.integer 1, true), (.integer 2, true), (.integer 3, true)] ∧
    off = [(.integer 0, false), (.integer 1, false), (.integer 2, false), (.integer 3, false)] ∧
    (∀ s : State, exec .allOn s = .next { s with outputs := s.outputs ++ [.fromEncoder (.led on)] }) ∧
    (∀ s : State, exec .allOff s = .next { s with outputs := s.outputs ++ [.fromEncoder (.led off)] }) ∧
    litV on = 0b1111#4 ∧ litV off = 0b0000#4 ∧
    commandOf on = #v[0x00, 0x00, 0xFF, 0xFF, 0xFF, 0xFF] ∧
    commandOf off = #v[0x00, 0x00, 0x00, 0x00, 0x00, 0x00] ∧ commandOf off = commandOf []

/-- R90: SINGLE completes for every integer and changes nothing but the results; in range it lights that channel, out of
range it hands back what ALLOFF does; a non-integer is refused (U4). -/
def Obligations.SingleLightsOneChannel : Prop :=
  (∀ (s : State) (c : Int), ∃ m : LedState,
    exec (.single (.integer c)) s = .next { s with outputs := s.outputs ++ [.fromEncoder (.led m)] } ∧
    m = [(.integer 0, decide (c = 0)), (.integer 1, decide (c = 1)), (.integer 2, decide (c = 2)),
      (.integer 3, decide (c = 3))] ∧
    (0 ≤ c ∧ c ≤ 3 → litV m = 1#4 <<< c.toNat) ∧
    (c < 0 ∨ 3 < c → litV m = 0b0000#4 ∧ exec (.single (.integer c)) s = exec .allOff s) ∧
    (c = 2 → commandOf m = #v[0x00, 0x00, 0x00, 0x00, 0xFF, 0x00])) ∧
  ∀ s : State, exec (.single .notInteger) s = .refused .nonIntegerOperand

/-- R91: COUNTUPTO completes for every integer and changes nothing but the results; it lights the channels below the
clamped operand; a non-integer is refused (U4). -/
def Obligations.CountUpToLightsTheFirst : Prop :=
  (∀ (s : State) (n : Int), ∃ m : LedState,
    exec (.countUpTo (.integer n)) s = .next { s with outputs := s.outputs ++ [.fromEncoder (.led m)] } ∧
    m = [(.integer 0, decide (0 < n)), (.integer 1, decide (1 < n)), (.integer 2, decide (2 < n)),
      (.integer 3, decide (3 < n))] ∧
    litV m = (1#4 <<< (min (max n 0) 4).toNat) - 1#4 ∧
    (4 ≤ n → exec (.countUpTo (.integer n)) s = exec (.countUpTo (.integer 4)) s) ∧
    (n ≤ 0 → exec (.countUpTo (.integer n)) s = exec (.countUpTo (.integer 0)) s) ∧
    (n = 3 → commandOf m = #v[0x00, 0x00, 0xFF, 0xFF, 0xFF, 0x00])) ∧
  ∀ s : State, exec (.countUpTo .notInteger) s = .refused .nonIntegerOperand

/-- ALTERNATING completes for both operands and changes nothing but the results; the two results light complementary sets
of one parity each. That 0 lights the even set is the spec's own decision (D11, log 8). -/
def Obligations.AlternatingLightsOneParity : Prop :=
  ∃ even odd : LedState,
    even = [(.integer 0, true), (.integer 1, false), (.integer 2, true), (.integer 3, false)] ∧
    odd = [(.integer 0, false), (.integer 1, true), (.integer 2, false), (.integer 3, true)] ∧
    (∀ s : State, exec (.alternating 0) s = .next { s with outputs := s.outputs ++ [.fromEncoder (.led even)] }) ∧
    (∀ s : State, exec (.alternating 1) s = .next { s with outputs := s.outputs ++ [.fromEncoder (.led odd)] }) ∧
    (∀ p : BitVec 1, p = 0 ∨ p = 1) ∧
    litV even = 0b0101#4 ∧ litV odd = ~~~litV even ∧
    commandOf even = #v[0x00, 0x00, 0xFF, 0x00, 0xFF, 0x00]

/-- ISVALIDCHANNELNUMBER completes for every operand and changes nothing but the results; it answers true exactly for the
integers 1 to 4, and at a fixed-point port of any widths exactly when the fraction is zero and the integer part is 1 to 4
(D13). -/
def Obligations.ChannelNumbersAreOneToFour : Prop :=
  (∀ (s : State) (x : Number), ∃ valid,
    exec (.isValidChannelNumber x) s = .next { s with outputs := s.outputs ++ [.fromEncoder (.boolean valid)] } ∧
    (valid = true ↔ x = .integer 1 ∨ x = .integer 2 ∨ x = .integer 3 ∨ x = .integer 4)) ∧
  ∀ (i f : Nat) (v : BitVec (i + f)), isChannelNumber (numberOfFixed v) = true ↔
    (∀ j, j < f → v.getLsbD j = false) ∧
      1 ≤ (v.extractLsb' f i).toInt ∧ (v.extractLsb' f i).toInt ≤ 4

/-- R102: an out-of-range index is never an error. SINGLE hands back what ALLOFF does; COUNTUPTO hands back what it does
for the clamped count; ENCODE drops foreign keys and reads a missing channel as unlit; ISVALIDCHANNELNUMBER answers
false. Each completes. -/
def Obligations.OutOfRangeIsNeverAnError : Prop :=
  ∀ (s : State) (n : Int) (m : LedState),
    (n < 0 ∨ 3 < n → exec (.single (.integer n)) s = exec .allOff s ∧ ∃ t, exec (.single (.integer n)) s = .next t) ∧
    (exec (.countUpTo (.integer n)) s = exec (.countUpTo (.integer (min (max n 0) 4))) s ∧
      ∃ t, exec (.countUpTo (.integer n)) s = .next t) ∧
    (∀ (k : Number) (lit : Bool), (∀ N : Fin 4, k ≠ .integer N.val) →
      exec (.encode ((k, lit) :: m)) s = exec (.encode m) s ∧ ∃ t, exec (.encode ((k, lit) :: m)) s = .next t) ∧
    (∀ N : Fin 4, m.lookup (.integer N.val) = none → exec (.encode m) s = exec (.encode ((.integer N.val, false) :: m)) s) ∧
    (n < 1 ∨ 4 < n → exec (.isValidChannelNumber (.integer n)) s =
      .next { s with outputs := s.outputs ++ [.fromEncoder (.boolean false)] })

/-- The 1-based check and the 0-based indices differ on purpose: 4 is a valid number and lights nothing as a channel, 0 is
no valid number and lights channel 0. -/
def Obligations.NumbersAndIndicesDiffer : Prop :=
  isChannelNumber (.integer 4) = true ∧ isChannelNumber (.integer 0) = false ∧
  ∀ s : State, exec (.single (.integer 4)) s = exec .allOff s ∧
    ∃ m : LedState, exec (.single (.integer 0)) s = .next { s with outputs := s.outputs ++ [.fromEncoder (.led m)] } ∧
      m.lookup (.integer 0) = some true

/-- A constructor's result, encoded, has 0xFF exactly at the channels it lights, whatever it lights. -/
def Obligations.ConstructedStatesEncodeAsLit : Prop :=
  ∀ lit : Fin 4 → Bool, ledLegal (ledOf lit) ∧ LedState.wf (ledOf lit) = true ∧
    ∀ N : Fin 4, (commandOf (ledOf lit))[2 + N.val] = if lit N then 0xFF#8 else 0x00#8

/-! ## All operations -/

/-- Every encoder operation (ENCODE, ALLON, ALLOFF, SINGLE, COUNTUPTO, ALTERNATING, ISVALIDCHANNELNUMBER) is pure: one
result for its operands, whatever the state, and nothing changed but that it is handed back. Their frame: every snapshot
and every pending call stays. -/
def Obligations.EncoderOperationsArePure : Prop :=
  ∀ i : Instr, usesDecoder i = false → integerOperands i = true →
    ∃ r : Result, ∀ s : State, exec i s = .next { s with outputs := s.outputs ++ [.fromEncoder r] }

/-- Every decoder operation (DECODE, RESET, ISVALIDPRESS) is a function of the snapshot in use and its operands. Its
frame: the other instances and the pending calls stay, and one result is handed back. -/
def Obligations.DecoderOperationsUseOneSnapshot : Prop :=
  ∀ i : Instr, usesDecoder i = true →
    ∃ f : Snapshot → Snapshot × Result, ∀ s : State,
      exec i s = .next { s with
        snap := (f s.snap).1, outputs := s.outputs ++ [.fromDecoder s.earlier.length (f s.snap).2] }

/-- R103: no operation stops the block: in every state, whatever went before, every operation completes on its operand
domain (the operand of SINGLE and COUNTUPTO an integer, R49; every operand of the others). -/
def Obligations.NoOperationStopsTheBlock : Prop :=
  ∀ (i : Instr) (s : State), integerOperands i = true → ∃ t, exec i s = .next t

/-- Whatever the calls, every result handed back stays one the block may hand back: events strictly in pair order, at most
one a pair, commands of the 16, total LED states, each from its own unit and from a constructed instance. -/
def Obligations.StepKeepsOutputsLegal : Prop :=
  ∀ s t : State, s.OutputsLegal → step s = .next t → t.OutputsLegal

/-- Calls of which none is to be refused (LP-NOREFUSE) are performed one a step, and those that remain are still so; and a
step that is refused was asked for something the model does not serve. -/
def Obligations.ServedCallsArePerformed : Prop :=
  (∀ s : State, s.Servable → ∃ t, step s = .next t ∧ t.Servable ∧ t.inputs = s.inputs.tail) ∧
  ∀ (s : State) (e : Refusal), step s = .refused e → ¬ s.Servable

/-- Both invariants hold right after reset. -/
def Obligations.InvariantsHoldAtReset : Prop :=
  State.reset.OutputsLegal ∧ State.reset.Servable

/-- No step changes the number of constructed instances but the construction of one, and no step takes back a result. -/
def Obligations.StepsNeverTakeBack : Prop :=
  ∀ s t : State, step s = .next t →
    (t.instances.length = s.instances.length ∨
      (t.instances.length = s.instances.length + 1 ∧ ∃ rest, s.inputs = .construct :: rest)) ∧
    ∃ l, t.outputs = s.outputs ++ l ∧ l.length ≤ 1

/-- The instances do not interfere: when the pending calls have all been performed, the snapshot of each instance and the
results it handed back are those of its own calls alone, in their order, from its own snapshot. -/
def Obligations.InstancesDoNotInterfere : Prop :=
  ∀ (s t : State) (k : Nat) (v : Snapshot), s.instances[k]? = some v →
    Host.Core.run Sys2Proof.core s.inputs.length s = .next t →
    t.inputs = [] ∧ t.instances[k]? = some (alone k v s.inputs).1 ∧
      resultsOf k t.outputs = resultsOf k s.outputs ++ (alone k v s.inputs).2
end

