-- ==== Sys2Proof/Laws/State.lean ====
section
/-! SUPPORT. One lemma per field and update of State, and what each update does to the list of instances. -/

namespace Sys2Proof.Machine

variable (s : State)

@[simp] theorem State.setSnap_earlier (v : Snapshot) : (s.setSnap v).earlier = s.earlier := rfl
@[simp] theorem State.setSnap_snap (v : Snapshot) : (s.setSnap v).snap = v := rfl
@[simp] theorem State.setSnap_later (v : Snapshot) : (s.setSnap v).later = s.later := rfl
@[simp] theorem State.setSnap_inputs (v : Snapshot) : (s.setSnap v).inputs = s.inputs := rfl
@[simp] theorem State.setSnap_outputs (v : Snapshot) : (s.setSnap v).outputs = s.outputs := rfl

@[simp] theorem State.setInputs_earlier (l : List Input) : (s.setInputs l).earlier = s.earlier := rfl
@[simp] theorem State.setInputs_snap (l : List Input) : (s.setInputs l).snap = s.snap := rfl
@[simp] theorem State.setInputs_later (l : List Input) : (s.setInputs l).later = s.later := rfl
@[simp] theorem State.setInputs_inputs (l : List Input) : (s.setInputs l).inputs = l := rfl
@[simp] theorem State.setInputs_outputs (l : List Input) : (s.setInputs l).outputs = s.outputs := rfl

@[simp] theorem State.answerDecoder_earlier (r : Result) : (s.answerDecoder r).earlier = s.earlier := rfl
@[simp] theorem State.answerDecoder_snap (r : Result) : (s.answerDecoder r).snap = s.snap := rfl
@[simp] theorem State.answerDecoder_later (r : Result) : (s.answerDecoder r).later = s.later := rfl
@[simp] theorem State.answerDecoder_inputs (r : Result) : (s.answerDecoder r).inputs = s.inputs := rfl
@[simp] theorem State.answerDecoder_outputs (r : Result) : (s.answerDecoder r).outputs = s.outputs ++ [.fromDecoder s.earlier.length r] := rfl

@[simp] theorem State.answerEncoder_earlier (r : Result) : (s.answerEncoder r).earlier = s.earlier := rfl
@[simp] theorem State.answerEncoder_snap (r : Result) : (s.answerEncoder r).snap = s.snap := rfl
@[simp] theorem State.answerEncoder_later (r : Result) : (s.answerEncoder r).later = s.later := rfl
@[simp] theorem State.answerEncoder_inputs (r : Result) : (s.answerEncoder r).inputs = s.inputs := rfl
@[simp] theorem State.answerEncoder_outputs (r : Result) : (s.answerEncoder r).outputs = s.outputs ++ [.fromEncoder r] := rfl

@[simp] theorem State.construct_earlier : (s.construct).earlier = s.earlier := rfl
@[simp] theorem State.construct_snap : (s.construct).snap = s.snap := rfl
@[simp] theorem State.construct_later : (s.construct).later = s.later ++ [Snapshot.unpressed] := rfl
@[simp] theorem State.construct_inputs : (s.construct).inputs = s.inputs := rfl
@[simp] theorem State.construct_outputs : (s.construct).outputs = s.outputs := rfl

@[simp] theorem State.setInputs_instances (l : List Input) : (s.setInputs l).instances = s.instances := rfl
@[simp] theorem State.answerDecoder_instances (r : Result) : (s.answerDecoder r).instances = s.instances := rfl
@[simp] theorem State.answerEncoder_instances (r : Result) : (s.answerEncoder r).instances = s.instances := rfl

theorem State.setSnap_instances (v : Snapshot) : (s.setSnap v).instances = s.earlier ++ v :: s.later := rfl

@[simp] theorem State.construct_instances : s.construct.instances = s.instances ++ [Snapshot.unpressed] := by
  simp [State.instances]

@[simp] theorem State.instances_length : s.instances.length = s.earlier.length + s.later.length + 1 := by
  simp [State.instances]; omega

/-- The instance in use stands after the earlier ones. -/
@[simp] theorem State.instances_in_use : s.instances[s.earlier.length]? = some s.snap := by
  simp [State.instances]

/-- Writing the snapshot in use writes that instance and no other. -/
theorem State.setSnap_instances_get (v : Snapshot) (k : Nat) :
    (s.setSnap v).instances[k]? = if k = s.earlier.length then some v else s.instances[k]? := by
  rcases Nat.lt_trichotomy k s.earlier.length with h | h | h
  · simp [State.instances, List.getElem?_append, h, Nat.ne_of_lt h]
  · subst h; simp [State.instances]
  · obtain ⟨d, rfl⟩ : ∃ d, k = s.earlier.length + (d + 1) := ⟨k - s.earlier.length - 1, by omega⟩
    simp [State.instances, List.getElem?_append_right]

@[simp] theorem State.setSnap_instances_length (v : Snapshot) :
    (s.setSnap v).instances.length = s.instances.length := by
  simp

/-- Turning to an instance: it succeeds exactly for a constructed one, which is then in use; the list of instances and
the rest of the state stay. -/
theorem State.address_eq_some {s s' : State} {k : Nat} :
    s.address k = some s' ↔ ∃ v, s.instances[k]? = some v ∧
      s' = { s with earlier := s.instances.take k, snap := v, later := s.instances.drop (k + 1) } := by
  unfold State.address
  cases s.instances[k]? <;> simp [eq_comm]

theorem State.address_eq_none {s : State} {k : Nat} : s.address k = none ↔ s.instances[k]? = none := by
  unfold State.address
  cases s.instances[k]? <;> simp

/-- Every constructed instance can be turned to. -/
theorem State.address_of_lt {s : State} {k : Nat} (h : k < s.instances.length) : ∃ s', s.address k = some s' :=
  ⟨_, State.address_eq_some.2 ⟨_, List.getElem?_eq_getElem h, rfl⟩⟩

/-- What turning to an instance keeps, and where it stands afterwards. -/
theorem State.address_spec {s s' : State} {k : Nat} (h : s.address k = some s') :
    s'.instances = s.instances ∧ s'.earlier.length = k ∧ s.instances[k]? = some s'.snap ∧
      s'.inputs = s.inputs ∧ s'.outputs = s.outputs := by
  obtain ⟨v, hv, rfl⟩ := State.address_eq_some.1 h
  obtain ⟨hk, rfl⟩ := List.getElem?_eq_some_iff.1 hv
  refine ⟨?_, ?_, hv, rfl, rfl⟩
  · conv_rhs => rw [← List.take_append_drop k s.instances, List.drop_eq_getElem_cons hk]
    rfl
  · simp only [List.length_take]; omega

/-- Turning to the instance in use changes nothing. -/
@[simp] theorem State.address_in_use : s.address s.earlier.length = some s := by
  rw [State.address_eq_some]
  exact ⟨s.snap, s.instances_in_use, by simp [State.instances]⟩

end Sys2Proof.Machine
end

