-- ==== Sys2Proof/Laws/Ops.lean ====
section
/-! SUPPORT. What each shared operation does, said once: the cells of a snapshot, the frame of a report, the events of a
DECODE, the LED map and its command. -/

namespace Sys2Proof.Machine

/-! ## Snapshots -/

@[simp] theorem Snapshot.cell_ofFn (f : Fin 4 → Fin 5 → Bool) (c : Fin 4) (b : Fin 5) :
    (Snapshot.ofFn f).cell c b = f c b := by
  simp [Snapshot.ofFn, Snapshot.cell]

@[simp] theorem Snapshot.cell_unpressed (c : Fin 4) (b : Fin 5) : Snapshot.unpressed.cell c b = false := by
  simp [Snapshot.unpressed, Snapshot.cell]

/-- Two snapshots with equal cells are one snapshot (R11). -/
theorem Snapshot.ext_cell {s t : Snapshot} (h : ∀ c b, s.cell c b = t.cell c b) : s = t := by
  obtain ⟨s⟩ := s; obtain ⟨t⟩ := t
  congr 1
  ext c hc b hb
  simpa [Snapshot.cell] using congrArg (· = true) (h ⟨c, hc⟩ ⟨b, hb⟩)

@[simp] theorem sample_cell (L : LocusTable) (f : Vector Byte 5) (c : Fin 4) (b : Fin 5) :
    (sample L f).cell c b = bit f (L.entry c b) := by
  simp [sample]

/-! ## Reports -/

theorem frame?_eq_none_iff {r : Report} : frame? r = none ↔ r.length < 5 := by
  rcases r with _ | ⟨_, _ | ⟨_, _ | ⟨_, _ | ⟨_, _ | ⟨_, _⟩⟩⟩⟩⟩ <;> simp [frame?]

/-- A long enough report has a frame, and its bytes are the report's first five. -/
theorem frame?_of_length {r : Report} (h : 5 ≤ r.length) :
    ∃ f, frame? r = some f ∧ ∀ i : Fin 5, f[i] = r.getD i.val 0#8 := by
  rcases r with _ | ⟨_, _ | ⟨_, _ | ⟨_, _ | ⟨_, _ | ⟨_, _⟩⟩⟩⟩⟩ <;>
    simp only [List.length_cons, List.length_nil] at h <;> try omega
  refine ⟨_, rfl, fun i => ?_⟩
  fin_cases i <;> rfl

theorem frame?_take {r : Report} (h : 5 ≤ r.length) : frame? (r.take 5) = frame? r := by
  rcases r with _ | ⟨_, _ | ⟨_, _ | ⟨_, _ | ⟨_, _ | ⟨_, _⟩⟩⟩⟩⟩ <;> simp_all [frame?]

/-- The mask test of R40 reads one bit of the byte. -/
theorem bit_eq_getLsbD (f : Vector Byte 5) (l : Locus) : bit f l = f[l.byteOffset].getLsbD l.bitOffset.val := by
  have mask : ∀ (i : Fin 8) (x : Byte), ((x &&& (1#8 <<< i.val)) != 0#8) = x.getLsbD i.val := by decide
  exact mask l.bitOffset f[l.byteOffset]

/-! ## The enumeration order -/

/-- The place of a pair in the enumeration order. -/
def place (p : Fin 4 × Fin 5) : Nat := 5 * p.1.val + p.2.val

@[simp] theorem mem_pairs (p : Fin 4 × Fin 5) : p ∈ pairs := by
  simp [pairs]

theorem pairs_ascending : pairs.Pairwise fun p q => place p < place q := by decide

theorem pairs_nodup : pairs.Nodup := by decide

theorem place_injective {p q : Fin 4 × Fin 5} (h : place p = place q) : p = q := by
  obtain ⟨c, b⟩ := p; obtain ⟨c', b'⟩ := q
  simp only [place] at h
  have : c = c' := Fin.ext (by omega)
  subst this
  have : b = b' := Fin.ext (by omega)
  subst this; rfl

/-! ## DECODE -/

theorem decodeStep_short {T : Type} {r : Report} (h : r.length < 5) (L : LocusTable) (names : Fin 5 → String) (v : Snapshot)
    (t : T) : decodeStep L names v r t = (v, .rejected) := by
  simp [decodeStep, frame?_eq_none_iff.2 h]

/-- An accepted DECODE: one frame, whose sample is the new snapshot and whose edges are the events. -/
theorem decodeStep_long {r : Report} (h : 5 ≤ r.length) : ∃ f, frame? r = some f ∧
    (∀ i : Fin 5, f[i] = r.getD i.val 0#8) ∧ ∀ {T : Type} (L : LocusTable) (names : Fin 5 → String) (v : Snapshot) (t : T),
      decodeStep L names v r t = (sample L f, .decoded (eventsBetween names v (sample L f) t)) := by
  obtain ⟨f, hf, hb⟩ := frame?_of_length h
  exact ⟨f, hf, hb, fun L names v t => by simp [decodeStep, hf]⟩

/-- The event of a pair holds that pair, the button's name and the timestamp. -/
theorem eventAt_eq_some {T : Type} {names : Fin 5 → String} {v w : Snapshot} {t : T} {p : Fin 4 × Fin 5} {e : Event T} :
    eventAt names v w t p = some e ↔
      ∃ a, edge (v.cell p.1 p.2) (w.cell p.1 p.2) = some a ∧ e = ⟨p.1, p.2, names p.2, a, t⟩ := by
  simp [eventAt, eq_comm]

theorem mem_eventsBetween {T : Type} {names : Fin 5 → String} {v w : Snapshot} {t : T} {e : Event T} :
    e ∈ eventsBetween names v w t ↔
      edge (v.cell e.controller e.button) (w.cell e.controller e.button) = some e.action ∧
        e.buttonName = names e.button ∧ e.timestamp = t := by
  simp only [eventsBetween, List.mem_filterMap, mem_pairs, true_and]
  constructor
  · rintro ⟨p, h⟩
    obtain ⟨a, ha, rfl⟩ := eventAt_eq_some.1 h
    exact ⟨ha, rfl, rfl⟩
  · rintro ⟨ha, hn, ht⟩
    refine ⟨(e.controller, e.button), eventAt_eq_some.2 ⟨e.action, ha, ?_⟩⟩
    obtain ⟨c, b, n, a, u⟩ := e
    simp_all

/-- The events stand in the enumeration order, strictly. -/
theorem eventsBetween_ascending {T : Type} (names : Fin 5 → String) (v w : Snapshot) (t : T) :
    (eventsBetween names v w t).Pairwise fun e e' =>
      place (e.controller, e.button) < place (e'.controller, e'.button) := by
  rw [eventsBetween, List.pairwise_filterMap]
  refine pairs_ascending.imp ?_
  intro p q hpq e he e' he'
  obtain ⟨_, _, rfl⟩ := eventAt_eq_some.1 he
  obtain ⟨_, _, rfl⟩ := eventAt_eq_some.1 he'
  exact hpq

/-- Nothing changed, no event. -/
@[simp] theorem eventsBetween_self {T : Type} (names : Fin 5 → String) (v : Snapshot) (t : T) :
    eventsBetween names v v t = [] := by
  rw [eventsBetween, List.filterMap_eq_nil_iff]
  intro p _
  cases h : v.cell p.1 p.2 <;> simp [eventAt, edge, h]

/-- What running DECODE on the instance in use does. -/
theorem State.runDecode_eq (s : State) (r : Report) (t : Time) :
    s.runDecode r t = (s.setSnap (decodeStep locus Config.buttonName s.snap r t).1,
      (decodeStep locus Config.buttonName s.snap r t).2) := rfl

/-! ## LED states and commands -/

@[simp] theorem isLit_ledOf (lit : Fin 4 → Bool) (N : Fin 4) : isLit (ledOf lit) N = lit N := by
  have keys : ∀ N M : Fin 4, (channelKey N == channelKey M) = decide (N = M) := by decide
  fin_cases N <;> simp [isLit, ledOf, channels, List.finRange, List.lookup, keys]

theorem commandOf_channel (m : LedState) (N : Fin 4) : (commandOf m)[2 + N.val] = channelByte (isLit m N) := by
  fin_cases N <;> rfl

theorem commandOf_header (m : LedState) : (commandOf m)[0] = 0x00#8 ∧ (commandOf m)[1] = 0x00#8 := ⟨rfl, rfl⟩

/-- A command depends on which channels are lit and on nothing else. -/
theorem commandOf_congr {m m' : LedState} (h : ∀ N, isLit m N = isLit m' N) : commandOf m = commandOf m' := by
  simp [commandOf, h]

end Sys2Proof.Machine
end

