-- ==== Sys2Proof/Laws/Events.lean ====
section
/-! SUPPORT. What a report shows, the events of one pair, and the lanes of the vector form, said once. -/

namespace Sys2Proof.Machine

/-- The mask test on the frame and the bit test on the report read the same value (R40). -/
theorem bit_eq_currentValue {r : Report} {f : Vector Byte 5} (hf : ∀ i : Fin 5, f[i] = r.getD i.val 0#8)
    (L : LocusTable) (c : Fin 4) (b : Fin 5) : bit f (L.entry c b) = currentValue L r c b := by
  rw [bit_eq_getLsbD, hf]; rfl

/-- Two tables' entries are equal when both offsets are. -/
theorem Locus.ext_offsets {l m : Locus} (hB : l.byteOffset = m.byteOffset) (hi : l.bitOffset = m.bitOffset) : l = m := by
  cases l; cases m; simp_all

/-- The enumeration order is the order of the flat index (R12, R64). -/
theorem pairs_eq_flat : pairs = (List.finRange 20).map fun k => (controllerOf k, buttonOf k) := by decide

@[simp] theorem controllerOf_flatIndex (c : Fin 4) (b : Fin 5) : controllerOf (flatIndex c b) = c := by
  apply Fin.ext; simp only [controllerOf, flatIndex]; omega

@[simp] theorem buttonOf_flatIndex (c : Fin 4) (b : Fin 5) : buttonOf (flatIndex c b) = b := by
  apply Fin.ext; simp only [buttonOf, flatIndex]; omega

/-- A lane of SNAPV is a cell (R12). -/
theorem snapV_lane (s : Snapshot) (k : Fin 20) : (snapV s).getLsbD k.val = s.cell (controllerOf k) (buttonOf k) := by
  simp [snapV]

/-- Whether a DECODE's events hold one of lane `k` with a given action is the edge rule at that lane (R46, R63). -/
theorem hasEventAt_eventsBetween {T : Type} (names : Fin 5 → String) (v w : Snapshot) (t : T) (a : Action) (k : Fin 20) :
    hasEventAt (eventsBetween names v w t) a k =
      decide (edge (v.cell (controllerOf k) (buttonOf k)) (w.cell (controllerOf k) (buttonOf k)) = some a) := by
  rw [Bool.eq_iff_iff]
  simp only [hasEventAt, List.any_eq_true, decide_eq_true_eq]
  constructor
  · rintro ⟨e, he, h1, h2, h3⟩
    have h := (mem_eventsBetween.1 he).1
    rwa [h1, h2, h3] at h
  · intro h
    exact ⟨⟨controllerOf k, buttonOf k, names (buttonOf k), a, t⟩, mem_eventsBetween.2 ⟨h, rfl, rfl⟩, rfl, rfl, rfl⟩

/-- Where a list without repeats lists a pair once, filtering its events for that pair leaves that pair's event. -/
theorem filterMap_eventAt_pair {T : Type} (names : Fin 5 → String) (v w : Snapshot) (t : T) (c : Fin 4) (b : Fin 5)
    (l : List (Fin 4 × Fin 5)) (hl : l.Nodup) :
    eventsOfPair (l.filterMap (eventAt names v w t)) c b =
      if (c, b) ∈ l then (eventAt names v w t (c, b)).toList else [] := by
  induction l with
  | nil => rfl
  | cons p l ih =>
    obtain ⟨hp, hl'⟩ := List.nodup_cons.1 hl
    specialize ih hl'
    unfold eventsOfPair at ih ⊢
    by_cases hpc : p = (c, b)
    · subst hpc
      rw [if_neg hp] at ih
      cases he : eventAt names v w t (c, b) with
      | none => rw [List.filterMap_cons_none he, ih]; simp
      | some e =>
        obtain ⟨_, _, rfl⟩ := eventAt_eq_some.1 he
        rw [List.filterMap_cons_some he, List.filter_cons_of_pos (by simp), ih]; simp
    · have hm : ((c, b) ∈ p :: l) ↔ (c, b) ∈ l := by simp [Ne.symm hpc]
      simp only [hm]
      cases he : eventAt names v w t p with
      | none => rw [List.filterMap_cons_none he, ih]
      | some e =>
        obtain ⟨_, _, rfl⟩ := eventAt_eq_some.1 he
        have hne : ¬ (p.1 = c ∧ p.2 = b) := fun h => hpc (Prod.ext h.1 h.2)
        rw [List.filterMap_cons_some he, List.filter_cons_of_neg (by simpa using hne), ih]

/-- The events of one pair are the one the edge rule gives it, if any (R63). -/
theorem eventsOfPair_eventsBetween {T : Type} (names : Fin 5 → String) (v w : Snapshot) (t : T) (c : Fin 4) (b : Fin 5) :
    eventsOfPair (eventsBetween names v w t) c b = (eventAt names v w t (c, b)).toList := by
  rw [eventsBetween, filterMap_eventAt_pair _ _ _ _ _ _ _ pairs_nodup, if_pos (mem_pairs _)]

/-- Entries that are no channel do not change what a lookup of another key finds (R82). -/
theorem lookup_filter_of_keeps (m : LedState) (p : Number × Bool → Bool) (k : Number) (hk : ∀ b, p (k, b) = true) :
    (m.filter p).lookup k = m.lookup k := by
  induction m with
  | nil => rfl
  | cons e m ih =>
    obtain ⟨a, b⟩ := e
    by_cases h : k = a
    · subst h; simp [hk]
    · have hb : (k == a) = false := by simpa using h
      rw [List.filter_cons]; split <;> simp [List.lookup_cons, hb, ih]

/-- In a map, looking an integer key up finds exactly its entry. -/
theorem lookup_eq_some_iff_mem (m : LedState) (h : LedState.wf m = true) (k : Int) (b : Bool) :
    m.lookup (.integer k) = some b ↔ (Number.integer k, b) ∈ m := by
  replace h : (m.filterMap fun e => e.1.toInt?).Nodup := by simpa [LedState.wf] using h
  induction m with
  | nil => simp
  | cons e m ih =>
    obtain ⟨a, b'⟩ := e
    specialize ih (h.sublist ((List.sublist_cons_self _ _).filterMap _))
    by_cases hk : Number.integer k = a
    · subst hk
      have hn : ∀ b, (Number.integer k, b) ∉ m := fun b hb => by
        simp only [List.filterMap_cons, Number.toInt?, List.nodup_cons] at h
        exact h.1 (List.mem_filterMap.2 ⟨_, hb, rfl⟩)
      simp [hn, eq_comm]
    · have hb : (Number.integer k == a) = false := by simpa using hk
      simp [List.lookup_cons, hb, ih, hk]

/-- A result some instances may hand back, more instances may. -/
theorem Output.legal_mono {n m : Nat} (h : n ≤ m) {o : Output} (ho : o.legal n) : o.legal m := by
  match o, ho with
  | .fromDecoder _ (.decode .rejected), ho => exact Nat.lt_of_lt_of_le ho h
  | .fromDecoder _ (.decode (.decoded _)), ho => exact ⟨Nat.lt_of_lt_of_le ho.1 h, ho.2⟩
  | .fromDecoder _ .none, ho => exact Nat.lt_of_lt_of_le ho h
  | .fromDecoder _ (.boolean _), ho => exact Nat.lt_of_lt_of_le ho h
  | .fromEncoder (.boolean _), _ => trivial
  | .fromEncoder (.command _), ho => exact ho
  | .fromEncoder (.led _), ho => exact ho

end Sys2Proof.Machine
end

