-- ==== Sys2Proof/Laws/PerInstr.lean ====
section
/-! SUPPORT. Statements about every operation as syntax, one lemma per constructor. -/

namespace Sys2Proof.Laws.SelectorRow

/-- The selector of an operation is a row of R50; the decoder's operations come first (D2); the encoder gives the
request that selector, and the request asks for that operation when it is well formed. -/
def Statement (i : Instr) : Prop :=
  i.selector.toNat < 10 ∧ (Machine.usesDecoder i = true ↔ i.selector.toNat < 3) ∧ (encode i).op = i.selector ∧
    (WellFormed i → decodeRequest (encode i) = .ok i)

theorem decode (r : Report) (t : Time) : Statement (.decode r t) :=
  ⟨by simp [Instr.selector], by simp [Machine.usesDecoder, Instr.selector], rfl, fun _ => rfl⟩
theorem reset : Statement .reset := ⟨by decide, by decide, rfl, fun _ => rfl⟩
theorem isValidPress (r : Report) (t : Time) : Statement (.isValidPress r t) :=
  ⟨by simp [Instr.selector], by simp [Machine.usesDecoder, Instr.selector], rfl, fun _ => rfl⟩
theorem encode (m : LedState) : Statement (.encode m) :=
  ⟨by simp [Instr.selector], by simp [Machine.usesDecoder, Instr.selector], rfl, fun h => by
    have h' : LedState.wf m = true := h
    show (if LedState.wf m then Except.ok (Instr.encode m) else .error Reject.notAMap) = _
    simp [h']⟩
theorem allOn : Statement .allOn := ⟨by decide, by decide, rfl, fun _ => rfl⟩
theorem allOff : Statement .allOff := ⟨by decide, by decide, rfl, fun _ => rfl⟩
theorem single (c : Number) : Statement (.single c) :=
  ⟨by simp [Instr.selector], by simp [Machine.usesDecoder, Instr.selector], rfl, fun _ => rfl⟩
theorem countUpTo (n : Number) : Statement (.countUpTo n) :=
  ⟨by simp [Instr.selector], by simp [Machine.usesDecoder, Instr.selector], rfl, fun _ => rfl⟩
theorem alternating (p : BitVec 1) : Statement (.alternating p) :=
  ⟨by simp [Instr.selector], by simp [Machine.usesDecoder, Instr.selector], rfl, fun _ => rfl⟩
theorem isValidChannelNumber (x : Number) : Statement (.isValidChannelNumber x) :=
  ⟨by simp [Instr.selector], by simp [Machine.usesDecoder, Instr.selector], rfl, fun _ => rfl⟩

end Sys2Proof.Laws.SelectorRow
end

