-- ==== Sys2Proof/Laws/Step.lean ====
section
/-! SUPPORT. What one operation and one step can do, said once (the inversion lemmas that every invariant is derived
from). -/

namespace Sys2Proof.Machine

/-- An operation that completes hands back one result; an encoder operation changes nothing else, a decoder operation
nothing but the snapshot in use. -/
theorem exec_next {i : Instr} {s t : State} (h : exec i s = .next t) :
    (usesDecoder i = false ∧ ∃ r, t = s.answerEncoder r) ∨
      (usesDecoder i = true ∧ ∃ v r, t = (s.setSnap v).answerDecoder r) := by
  cases i with
  | decode r u => exact .inr ⟨rfl, _, _, by simpa [exec, execDecode, State.runDecode_eq, eq_comm] using h⟩
  | reset => exact .inr ⟨rfl, _, _, by simpa [exec, execReset, eq_comm] using h⟩
  | isValidPress r u => exact .inr ⟨rfl, _, _, by simpa [exec, execIsValidPress, State.runDecode_eq, eq_comm] using h⟩
  | encode m => exact .inl ⟨rfl, _, by simpa [exec, execEncode, eq_comm] using h⟩
  | allOn => exact .inl ⟨rfl, _, by simpa [exec, execAllOn, eq_comm] using h⟩
  | allOff => exact .inl ⟨rfl, _, by simpa [exec, execAllOff, eq_comm] using h⟩
  | single c =>
    cases c with
    | integer c => exact .inl ⟨rfl, _, by simpa [exec, execSingle, eq_comm] using h⟩
    | notInteger => simp [exec, execSingle] at h
  | countUpTo c =>
    cases c with
    | integer c => exact .inl ⟨rfl, _, by simpa [exec, execCountUpTo, eq_comm] using h⟩
    | notInteger => simp [exec, execCountUpTo] at h
  | alternating p => exact .inl ⟨rfl, _, by simpa [exec, execAlternating, eq_comm] using h⟩
  | isValidChannelNumber x => exact .inl ⟨rfl, _, by simpa [exec, execIsValidChannelNumber, eq_comm] using h⟩

/-- What a fetched request comes to: a refusal, or an operation that runs on the instance it was called on (a decoder
operation) or in the state as it is (an encoder operation). -/
theorem fetchRequest_eq_run {k : Nat} {rq : Request} {s s' : State} {i : Instr} :
    fetchRequest k rq s = .run i s' ↔ decodeRequest rq = .ok i ∧
      ((usesDecoder i = true ∧ s.address k = some s') ∨ (usesDecoder i = false ∧ s' = s)) := by
  unfold fetchRequest
  cases hd : decodeRequest rq with
  | error e => simp
  | ok j =>
    cases hu : usesDecoder j with
    | true =>
      cases ha : s.address k with
      | none => constructor
                · intro h; simp [hu] at h
                · rintro ⟨h, h'⟩; cases h; simp [hu] at h'
      | some u => constructor
                  · intro h; simp only [hu] at h; cases h; exact ⟨rfl, .inl ⟨hu, rfl⟩⟩
                  · rintro ⟨h, h'⟩; cases h; simp [hu] at h'; simp [hu, h']
    | false =>
      constructor
      · intro h; simp only [hu] at h; cases h; exact ⟨rfl, .inr ⟨hu, rfl⟩⟩
      · rintro ⟨h, h'⟩; cases h; simp [hu] at h'; simp [hu, h']

/-- Every next state of a step: idle, a construction, a reset line, or an operation. -/
theorem step_next {s t : State} (h : step s = .next t) :
    (s.inputs = [] ∧ t = s) ∨
    (∃ rest, s.inputs = .construct :: rest ∧ t = (s.setInputs rest).construct) ∨
    (∃ k rest s', s.inputs = .resetLine k :: rest ∧ (s.setInputs rest).address k = some s' ∧
      t = s'.setSnap Snapshot.unpressed) ∨
    (∃ k rq rest i s', s.inputs = .request k rq :: rest ∧ decodeRequest rq = .ok i ∧
      ((usesDecoder i = true ∧ (s.setInputs rest).address k = some s') ∨
        (usesDecoder i = false ∧ s' = s.setInputs rest)) ∧ exec i s' = .next t) := by
  unfold step fetch at h
  rcases hi : s.inputs with _ | ⟨c, rest⟩
  · exact .inl ⟨rfl, by simpa [hi, eq_comm] using h⟩
  refine .inr ?_
  cases c with
  | construct => exact .inl ⟨rest, rfl, by simpa [hi, eq_comm] using h⟩
  | resetLine k =>
    refine .inr (.inl ⟨k, rest, ?_⟩)
    simp only [hi, fetchResetLine] at h
    cases ha : (s.setInputs rest).address k with
    | none => simp [ha] at h
    | some s' => exact ⟨s', rfl, rfl, by simpa [ha, eq_comm] using h⟩
  | request k rq =>
    refine .inr (.inr ⟨k, rq, rest, ?_⟩)
    simp only [hi] at h
    cases hf : fetchRequest k rq (s.setInputs rest) with
    | idle => simp only [fetchRequest] at hf; split at hf <;> (try split at hf) <;> (try split at hf) <;> cases hf
    | done u => simp only [fetchRequest] at hf; split at hf <;> (try split at hf) <;> (try split at hf) <;> cases hf
    | stop e => simp [hf] at h
    | run i s' =>
      obtain ⟨hd, hr⟩ := fetchRequest_eq_run.1 hf
      exact ⟨i, s', rfl, hd, hr, by simpa [hf] using h⟩

end Sys2Proof.Machine
end

