-- ==== Sys2Proof/Tests/Slice0.lean ====
section
/-! SUPPORT. Tests. Expected values are the spec's own (spec/95_test_vectors.md, the tables of 30, 41, 42), cited at
each. The theorems `test_witness_…` show that the hypotheses of the statements in Certificates/Slice0/Obligations.lean are
met, each clause at a boundary where it has one. -/

namespace Sys2Proof.Tests

open Sys2Proof Sys2Proof.Machine

/-- The snapshot with the given flat view, as the vectors write it. -/
def snapOf (v : BitVec 20) : Snapshot := Snapshot.ofFn fun c b => v.getLsbD (5 * c.val + b.val)

/-- One instance with the given snapshot, and nothing else. -/
def one (v : BitVec 20) : State := { State.reset with snap := snapOf v }

/-- Two instances, the second in use. -/
def two : State := { State.reset with earlier := [snapOf 0x00001], snap := snapOf 0x00000 }

/-- A state with one pending call. -/
def asked (i : Input) : State := { State.reset with inputs := [i] }

/-- What an event says, less the name and the timestamp. -/
def said {T : Type} (e : Event T) : Nat × Nat × Action := (e.controller.val, e.button.val, e.action)

/-- The events a completed DECODE handed back last, none for anything else. -/
def decodedBy : Host.Outcome State Fault Refusal → Option (List (Nat × Nat × Action))
  | .next s =>
    match s.outputs.getLast? with
    | some (.fromDecoder _ (.decode (.decoded es))) => some (es.map said)
    | _ => none
  | _ => none

/-- The last result handed back. -/
def answer : Host.Outcome State Fault Refusal → Option Output
  | .next s => s.outputs.getLast?
  | _ => none

/-- SNAPV of the instance in use afterwards. -/
def after : Host.Outcome State Fault Refusal → Option (BitVec 20)
  | .next s => some (snapV s.snap)
  | _ => none

/-- The refusal, if it is one. -/
def refusal : Host.Outcome State Fault Refusal → Option Refusal
  | .refused r => some r
  | _ => none

/-- The operation a request decodes to. -/
def asks (r : Request) : Option Instr :=
  match decodeRequest r with
  | .ok i => some i
  | .error _ => none

/-! ## Well-formedness: an LED state with one integer key twice is no map, and is refused -/

theorem test_wf_encode_twice : ¬ WellFormed (.encode [(.integer 1, true), (.integer 1, false)]) := by decide
theorem test_wf_encode_foreign : WellFormed (.encode [(.notInteger, true), (.notInteger, false), (.integer 4, true)]) := by
  decide
theorem test_decode_refuses_no_map :
    asks { blankRequest 3 with ledState := [(.integer 1, true), (.integer 1, true)] } = none := by decide

/-! ## Decoding: every row of the table of R50, written out -/

theorem test_row_decode : asks { blankRequest 0b0000#4 with report := [1, 2], t := Time.origin } = some (.decode [1, 2] Time.origin) := by
  decide
theorem test_row_reset : asks (blankRequest 0b0001#4) = some .reset := by decide
theorem test_row_isValidPress :
    asks { blankRequest 0b0010#4 with report := [1, 2], t := Time.origin } = some (.isValidPress [1, 2] Time.origin) := by decide
theorem test_row_encode :
    asks { blankRequest 0b0011#4 with ledState := [(.integer 2, true)] } = some (.encode [(.integer 2, true)]) := by decide
theorem test_row_allOn : asks (blankRequest 0b0100#4) = some .allOn := by decide
theorem test_row_allOff : asks (blankRequest 0b0101#4) = some .allOff := by decide
theorem test_row_single : asks { blankRequest 0b0110#4 with channel := .integer 2 } = some (.single (.integer 2)) := by decide
theorem test_row_countUpTo : asks { blankRequest 0b0111#4 with n := .integer 3 } = some (.countUpTo (.integer 3)) := by decide
theorem test_row_alternating : asks { blankRequest 0b1000#4 with p := 1 } = some (.alternating 1) := by decide
theorem test_row_isValidChannelNumber :
    asks { blankRequest 0b1001#4 with x := .integer 4 } = some (.isValidChannelNumber (.integer 4)) := by decide
/-- V-REF-1 -/
theorem test_unused_selectors :
    [0b1010#4, 0b1011#4, 0b1100#4, 0b1101#4, 0b1110#4, 0b1111#4].map (fun op => asks (blankRequest op)) =
      List.replicate 6 none := by decide
theorem test_table_word : decodeTableWord 8 0x6 = some (.single (.integer 0)) ∧ decodeTableWord 8 0xA = none := by decide
theorem test_first_step_after_reset :
    answer (step (State.reset.withFetchWord 8 0x0)) = some (.fromDecoder 0 (.decode .rejected)) ∧
    answer (step (State.reset.withFetchWord 8 0x9)) = some (.fromEncoder (.boolean false)) := by decide

/-! ## DECODE -/

/-- X4: the second report of D00's scenario. -/
theorem test_decode_press : decodedBy (exec (.decode [0, 0, 1, 0, 240] Time.origin) (one 0x00000)) = some [(0, 0, .pressed)] ∧
    after (exec (.decode [0, 0, 1, 0, 240] Time.origin) (one 0x00000)) = some 0x00001#20 := by decide
/-- R65: the timestamp, here a number, is handed on as it came. -/
theorem test_decode_timestamp : (decodeStep locus (fun _ => "name") (snapOf 0) [0, 0, 1, 0, 240] (2 : Nat)).2 =
    .decoded [⟨0, 0, "name", .pressed, 2⟩] := by decide
/-- V-DEC-28: a release between two presses. -/
theorem test_decode_mixed :
    decodedBy (exec (.decode [0, 0, 128, 1, 241] Time.origin) (one 0x08080)) =
      some [(1, 3, .pressed), (3, 0, .released), (3, 1, .pressed)] ∧
    after (exec (.decode [0, 0, 128, 1, 241] Time.origin) (one 0x08080)) = some 0x10180#20 := by decide
/-- V-DEC-11, V-DEC-12: four bytes are rejected, six are accepted. -/
theorem test_decode_lengths :
    answer (exec (.decode [0, 0, 1, 0] Time.origin) (one 0x00001)) = some (.fromDecoder 0 (.decode .rejected)) ∧
    after (exec (.decode [0, 0, 1, 0] Time.origin) (one 0x00001)) = some 0x00001#20 ∧
    decodedBy (exec (.decode [0, 0, 1, 0, 240, 99] Time.origin) (one 0x00001)) = some [] := by decide
/-- Section 2.2: the snapshot each locus alone leaves, read off its table. -/
theorem test_locus_rows :
    (after (exec (.decode [0, 0, 128, 0, 240] Time.origin) (one 0)), after (exec (.decode [0, 0, 0, 1, 240] Time.origin) (one 0)),
      after (exec (.decode [0, 0, 0, 128, 240] Time.origin) (one 0)), after (exec (.decode [0, 0, 0, 0, 248] Time.origin) (one 0))) =
    (some 0x00080#20, some 0x00100#20, some 0x08000#20, some 0x80000#20) := by decide

/-! ## RESET, ISVALIDPRESS -/

/-- V-RST-3: nothing is handed back but that there is no result. -/
theorem test_reset : after (exec .reset (one 0xFFFFF)) = some 0#20 ∧
    answer (exec .reset (one 0xFFFFF)) = some (.fromDecoder 0 .none) := by decide
/-- V-IVP-5: a release alone counts, and the snapshot moves. -/
theorem test_isValidPress_release :
    answer (exec (.isValidPress [0, 0, 0, 0, 0] Time.origin) (one 0x00200)) = some (.fromDecoder 0 (.boolean true)) ∧
    after (exec (.isValidPress [0, 0, 0, 0, 0] Time.origin) (one 0x00200)) = some 0#20 := by decide
/-- V-IVP-4: a short report. -/
theorem test_isValidPress_short :
    answer (exec (.isValidPress [0, 0, 0, 2] Time.origin) (one 0x00200)) = some (.fromDecoder 0 (.boolean false)) ∧
    after (exec (.isValidPress [0, 0, 0, 2] Time.origin) (one 0x00200)) = some 0x00200#20 := by decide

/-! ## The encoder -/

/-- V-ENC-6 and V-ENC-8. -/
theorem test_encode :
    answer (exec (.encode [(.integer 1, true), (.integer 2, false)]) (one 0)) =
      some (.fromEncoder (.command #v[0x00, 0x00, 0x00, 0xFF, 0x00, 0x00])) ∧
    answer (exec (.encode [(.integer 0, true), (.integer 4, true)]) (one 0)) =
      some (.fromEncoder (.command #v[0x00, 0x00, 0xFF, 0x00, 0x00, 0x00])) := by decide
/-- V-ENC-5, packed; V-ENC-10, at the ports. -/
theorem test_encode_ports : cmdWord (commandOf [(.integer 3, true)]) = 0xFF0000000000#48 ∧
    litV (ledOfPorts 0b0011#4 0b1110#4) = 0b0010#4 := by decide
/-- V-PAT-1 -/
theorem test_allOn : answer (exec .allOn (one 0)) =
    some (.fromEncoder (.led [(.integer 0, true), (.integer 1, true), (.integer 2, true), (.integer 3, true)])) := by decide
/-- V-PAT-2 -/
theorem test_allOff : answer (exec .allOff (one 0)) =
    some (.fromEncoder (.led [(.integer 0, false), (.integer 1, false), (.integer 2, false), (.integer 3, false)])) := by
  decide
/-- V-PAT-5, V-PAT-7, V-PAT-8: channel 2; out of range, not clamped onto a channel. -/
theorem test_single : litV (ledOf (singlePattern 2)) = 0b0100#4 ∧ litV (ledOf (singlePattern 4)) = 0#4 ∧
    litV (ledOf (singlePattern (-1))) = 0#4 := by decide
/-- V-PAT-19 -/
theorem test_not_integer : refusal (exec (.single .notInteger) (one 0)) = some .nonIntegerOperand ∧
    refusal (exec (.countUpTo .notInteger) (one 0)) = some .nonIntegerOperand := by decide
/-- V-PAT-13, V-PAT-15, V-PAT-16: three; clamped above; clamped below. -/
theorem test_countUpTo : litV (ledOf (countPattern 3)) = 0b0111#4 ∧ litV (ledOf (countPattern 1000000)) = 0b1111#4 ∧
    litV (ledOf (countPattern (-3))) = 0#4 := by decide
/-- V-PAT-17, V-PAT-18 (decision D11) -/
theorem test_alternating : litV (ledOf (parityPattern 0)) = 0b0101#4 ∧ litV (ledOf (parityPattern 1)) = 0b1010#4 := by
  decide
/-- V-CHN-1 to V-CHN-8 -/
theorem test_isValidChannelNumber :
    [.integer 0, .integer 1, .integer 2, .integer 3, .integer 4, .integer 5, .notInteger, .integer (-1)].map isChannelNumber =
      [false, true, true, true, true, false, false, false] := by decide
/-- V-CHN-12: the value 1.5 at a port with one fraction bit; and 1.0. -/
theorem test_fixed_point : numberOfFixed (i := 4) (f := 1) 0b00011#5 = .notInteger ∧
    numberOfFixed (i := 4) (f := 1) 0b00010#5 = .integer 1 := by decide
/-- R49: an argument port is read with its sign. -/
theorem test_argument_port : numberOfArg 0b1111#4 = .integer (-1) ∧ numberOfArg 0b0111#4 = .integer 7 := by decide

/-! ## Calls (95, program 6: two instances) -/

theorem test_construct : ∃ s, step (asked .construct) = .next s ∧ s.instances = [snapOf 0, snapOf 0] := ⟨_, rfl, by decide⟩
theorem test_reset_line : after (step { one 0x00402 with inputs := [.resetLine 0] }) = some 0#20 := by decide
theorem test_no_such_instance : refusal (step (asked (.request 1 (blankRequest 1)))) = some (.noSuchInstance 1) := by decide
theorem test_encoder_needs_no_instance : answer (step (asked (.request 7 (blankRequest 3)))) =
    some (.fromEncoder (.command #v[0x00, 0x00, 0x00, 0x00, 0x00, 0x00])) := by decide
/-- A call on the first of two instances leaves the second. -/
theorem test_two_instances : ∃ s, step { two with inputs := [.request 0 (blankRequest 1)] } = .next s ∧
    s.instances = [snapOf 0, snapOf 0] ∧ s.outputs = [.fromDecoder 0 .none] := ⟨_, rfl, by decide, by decide⟩

/-! ## Witnesses for the hypotheses of the statements -/

theorem test_witness_StepRunsTheDecodedRequest :
    (∃ (s : State) (k : Nat) (rq : Request) (i : Instr), s.inputs = [.request k rq] ∧ decodeRequest rq = .ok i ∧
      usesDecoder i = false) ∧
    (∃ (s : State) (rq : Request) (i : Instr) (v : Snapshot), s.inputs = [.request 0 rq] ∧ decodeRequest rq = .ok i ∧
      usesDecoder i = true ∧ s.instances[0]? = some v) ∧
    ∃ (s : State) (rq : Request) (i : Instr), s.inputs = [.request 1 rq] ∧ decodeRequest rq = .ok i ∧
      usesDecoder i = true ∧ s.instances[1]? = none :=
  ⟨⟨asked (.request 0 (blankRequest 4)), _, _, .allOn, rfl, rfl, rfl⟩,
    ⟨asked (.request 0 (blankRequest 0)), _, .decode [] Time.origin, snapOf 0, rfl, rfl, rfl, by decide⟩,
    ⟨asked (.request 1 (blankRequest 0)), _, .decode [] Time.origin, rfl, rfl, rfl, by decide⟩⟩

theorem test_witness_StepsWithoutAnOperation :
    (∃ s : State, s.inputs = []) ∧ (∃ s : State, s.inputs = [.construct]) ∧
    (∃ (s : State) (v : Snapshot), s.inputs = [.resetLine 0] ∧ s.instances[0]? = some v) ∧
    ∃ s : State, s.inputs = [.resetLine 1] ∧ s.instances[1]? = none :=
  ⟨⟨State.reset, rfl⟩, ⟨asked .construct, rfl⟩, ⟨asked (.resetLine 0), snapOf 0, rfl, by decide⟩,
    ⟨asked (.resetLine 1), rfl, by decide⟩⟩

theorem test_witness_OnlyCallsOnAnInstanceChangeIt :
    ∃ (s t : State) (v : Snapshot), step s = .next t ∧ s.instances[0]? = some v ∧ t.instances[0]? ≠ some v :=
  ⟨{ one 1 with inputs := [.request 0 (blankRequest 1)] }, _, snapOf 1, rfl, by decide, by decide⟩

theorem test_witness_UnusedSelectorsAreRefused :
    (∃ (s : State) (rq : Request), 10 ≤ rq.op.toNat ∧ s.inputs = [.request 0 rq] ∧ rq.op = 0b1010#4) ∧
    ∃ (s : State) (rq : Request), 10 ≤ rq.op.toNat ∧ s.inputs = [.request 0 rq] ∧ rq.op = 0b1111#4 :=
  ⟨⟨asked (.request 0 (blankRequest 10)), _, by decide, rfl, rfl⟩,
    ⟨asked (.request 0 (blankRequest 15)), _, by decide, rfl, rfl⟩⟩

theorem test_witness_RequestsEncodeAndDecode :
    WellFormed (.encode [(.integer 3, true), (.notInteger, true)]) ∧ ∃ i, decodeRequest (blankRequest 8) = .ok i :=
  ⟨by decide, _, rfl⟩

/-- Widths at which every operation has a presentable operand at the edge of its range. -/
def widths : PortWidths := { len := 3, arg := 4, xInt := 4, xFrac := 1, time := 2 }

/-- A timestamp port that presents the one instant that can be named. -/
def clock : TimePort Time 2 := { write := fun _ => 0#2, read := fun _ => Time.origin }

/-- These are the smallest widths the spec permits. -/
theorem test_witness_PermittedWidthsPresentEveryCase : widths.Permitted ∧ clock.read (clock.write Time.origin) = Time.origin :=
  ⟨⟨by decide, by decide, by decide, by decide⟩, rfl⟩

theorem test_witness_PortsEncodeAndDecode :
    ([.decode [1, 2, 3, 4, 5] Time.origin, .decode [] Time.origin, .reset, .isValidPress [255] Time.origin, .encode [(.integer 0, true), (.integer 3, false)],
      .encode [], .allOn, .allOff, .single (.integer 7), .single (.integer (-8)), .countUpTo (.integer 5),
      .countUpTo (.integer (-1)), .alternating 1, .isValidChannelNumber .notInteger,
      .isValidChannelNumber (.integer 5)] : List Instr).all (fun i => i.wf && presentable widths clock i) = true := by decide

theorem test_witness_lengths : (([1, 2, 3, 4] : Report).length < 5) ∧ (([] : Report).length < 5) ∧
    5 ≤ ([1, 2, 3, 4, 5] : Report).length ∧ 5 ≤ ([1, 2, 3, 4, 5, 6] : Report).length := by decide

/-- EdgesMakeTheEvents: a pair that is newly down, one that is newly up, one held, one up. -/
theorem test_witness_edges : (snapOf 0x00005).cell 0 0 = true ∧ currentValue locus [0, 0, 3, 0, 0] 0 0 = true ∧
    (snapOf 0x00005).cell 0 1 = false ∧ currentValue locus [0, 0, 3, 0, 0] 0 1 = true ∧
    (snapOf 0x00005).cell 0 2 = true ∧ currentValue locus [0, 0, 3, 0, 0] 0 2 = false ∧
    (snapOf 0x00005).cell 3 4 = false ∧ currentValue locus [0, 0, 3, 0, 0] 3 4 = false := by decide

/-- EventsStandInPairOrder, EventsCarryNameAndTimestamp, TimestampsDecideNothing, PortScanRecoversTheResult: an accepted
report with two events, and a rejected one. -/
theorem test_witness_events : (∃ es, (decodeStep locus Config.buttonName (snapOf 0) [0, 0, 3, 0, 0] Time.origin).2 = .decoded es ∧
      0 < es.length ∧ 1 < es.length) ∧
    (decodeStep locus Config.buttonName (snapOf 0) [0, 0, 3, 0] Time.origin).2 = .rejected :=
  ⟨⟨_, rfl, by decide, by decide⟩, rfl⟩

theorem test_witness_SourcePropertiesOfTheDecoder :
    (5 ≤ ([0, 0, 1, 0, 240] : Report).length ∧ ∀ c b, currentValue locus [0, 0, 1, 0, 240] c b = (snapOf 1).cell c b) ∧
    (currentValue locus [0, 0, 0, 0, 240] 3 4 = false ∧ currentValue locus [0, 0, 0, 0, 248] 3 4 = true ∧
      ∀ c' b', (c', b') ≠ ((3 : Fin 4), (4 : Fin 5)) →
        currentValue locus [0, 0, 0, 0, 248] c' b' = currentValue locus [0, 0, 0, 0, 240] c' b') := by decide

/-- The table of R39 meets S1 to S7, which FlippingALocusFlipsOnePair, ReservedBitsAreIgnored and
EveryTableFillsTheLocusBits assume of a table. -/
theorem test_witness_MeetsSource : locus.MeetsSource := by
  refine ⟨by decide, by decide, by decide, by decide, ?_, by decide, by decide⟩
  rintro ⟨B, i⟩; revert B i; decide

theorem test_witness_ReservedBitsAreIgnored :
    5 ≤ ([0, 0, 7, 8, 0xF9] : Report).length ∧ 5 ≤ ([255, 1, 7, 8, 0x09, 3] : Report).length ∧
    ([0, 0, 7, 8, 0xF9] : Report).getD 2 0 = ([255, 1, 7, 8, 0x09, 3] : Report).getD 2 0 ∧
    ([0, 0, 7, 8, 0xF9] : Report).getD 3 0 = ([255, 1, 7, 8, 0x09, 3] : Report).getD 3 0 ∧
    (([0, 0, 7, 8, 0xF9] : Report).getD 4 0).extractLsb' 0 4 =
      (([255, 1, 7, 8, 0x09, 3] : Report).getD 4 0).extractLsb' 0 4 := by decide

theorem test_witness_EveryTableFillsTheLocusBits :
    ((⟨2, 7⟩ : Locus).byteOffset = 2) ∧ ((⟨3, 0⟩ : Locus).byteOffset = 3) ∧
    ((⟨4, 3⟩ : Locus).byteOffset = 4 ∧ (⟨4, 3⟩ : Locus).bitOffset.val < 4) ∧ (0x0F#8).extractLsb' 0 4 = 0xF#4 := by decide

theorem test_witness_DecodeIsTheVectorForm : 5 ≤ ([0, 0, 3, 0, 0] : Report).length ∧
    ∃ v' es, decodeStep locus Config.buttonName (snapOf 0) [0, 0, 3, 0, 0] Time.origin = (v', .decoded es) :=
  ⟨by decide, _, _, rfl⟩

theorem test_witness_SecondSightIsSilent : 5 ≤ ([0, 0, 3, 0, 0] : Report).length ∧
    (∃ u, exec (.decode [0, 0, 3, 0, 0] Time.origin) (one 0) = .next u) ∧
    ∃ u, exec (.isValidPress [0, 0, 3, 0, 0] Time.origin) (one 0) = .next u :=
  ⟨by decide, ⟨_, rfl⟩, ⟨_, rfl⟩⟩

theorem test_witness_IsValidPressAnswersAndMutates : State.reset.snap = Snapshot.unpressed ∧
    ([1, 2, 3, 4] : Report).length < 5 := by decide

theorem test_witness_EncodeReadsAMap : LedState.wf [(.integer 0, true), (.integer 3, false)] = true ∧
    ([(.integer 0, true), (.integer 3, false)] : LedState).Perm [(.integer 3, false), (.integer 0, true)] :=
  ⟨by decide, List.Perm.swap _ _ _⟩

theorem test_witness_CommandsAreTheSixteen : commandLegal #v[0x00, 0x00, 0xFF, 0x00, 0x00, 0xFF] := by
  unfold commandLegal; decide

theorem test_witness_SingleLightsOneChannel : ((0 : Int) ≤ 0 ∧ (0 : Int) ≤ 3) ∧ ((0 : Int) ≤ 3 ∧ (3 : Int) ≤ 3) ∧
    ((-1 : Int) < 0) ∧ ((3 : Int) < 4) ∧ (2 : Int) = 2 := by decide

theorem test_witness_CountUpToLightsTheFirst : ((4 : Int) ≤ 4) ∧ ((0 : Int) ≤ 0) ∧ (3 : Int) = 3 := by decide

theorem test_witness_OutOfRangeIsNeverAnError : ((-1 : Int) < 0) ∧ ((3 : Int) < 4) ∧
    (∀ N : Fin 4, Number.integer 4 ≠ .integer N.val) ∧ (∀ N : Fin 4, Number.integer (-1) ≠ .integer N.val) ∧
    (∀ N : Fin 4, Number.notInteger ≠ .integer N.val) ∧
    ([(.integer 0, true)] : LedState).lookup (.integer (3 : Fin 4).val) = none ∧ ((0 : Int) < 1) ∧ ((4 : Int) < 5) := by decide

theorem test_witness_pure_operations :
    ([.encode [], .allOn, .allOff, .single (.integer 9), .countUpTo (.integer 9), .alternating 0,
      .isValidChannelNumber .notInteger] : List Instr).all (fun i => !usesDecoder i && integerOperands i) = true := by decide

theorem test_witness_decoder_operations :
    ([.decode [] Time.origin, .reset, .isValidPress [] Time.origin] : List Instr).all (fun i => usesDecoder i && integerOperands i) = true := by
  decide

theorem test_witness_StepKeepsOutputsLegal : ∃ s t : State, s.OutputsLegal ∧ step s = .next t ∧ t.outputs ≠ [] :=
  ⟨asked (.request 0 (blankRequest 3)), _, fun _ h => (List.not_mem_nil h).elim, rfl, by decide⟩

theorem test_witness_ServedCallsArePerformed :
    ({ State.reset with inputs := [.construct, .request 1 (blankRequest 0), .resetLine 0, .request 9 (blankRequest 3)] } :
      State).Servable ∧
    step (asked (.request 0 (blankRequest 12))) = .refused (.noSuchOperation 12) := ⟨rfl, rfl⟩

theorem test_witness_StepsNeverTakeBack : (∃ t, step (asked .construct) = .next t) ∧ ∃ t, step State.reset = .next t :=
  ⟨⟨_, rfl⟩, ⟨_, rfl⟩⟩

theorem test_witness_InstancesDoNotInterfere : ∃ (s t : State) (v : Snapshot), s.inputs.length = 2 ∧
    s.instances[1]? = some v ∧ Host.Core.run Sys2Proof.core s.inputs.length s = .next t :=
  ⟨{ two with inputs := [.request 0 (blankRequest 1), .request 1 { blankRequest 0 with report := [0, 0, 1, 0, 240] }] }, _,
    snapOf 0, rfl, by decide, rfl⟩

end Sys2Proof.Tests
end

