-- ==== Sys2Proof/Proofs/ResetValue.lean ====
section
/-! The reset value of the snapshot (R14): power-on, construction and RESET all write `Snapshot.unpressed`. -/

namespace Sys2Proof.Machine

/-- The flat view of the reset value (R14). -/
@[simp] theorem snapV_unpressed : snapV Snapshot.unpressed = 0x00000#20 := by
  apply BitVec.eq_of_getLsbD_eq
  intro i hi
  have hlane := snapV_lane Snapshot.unpressed ⟨i, hi⟩
  simpa using hlane

/-- RESET completes in every state; it writes the reset value and hands back no result (R71). -/
theorem exec_reset (s : State) :
    exec .reset s = .next ((s.setSnap Snapshot.unpressed).answerDecoder .none) := rfl

/-- Settles O1: the snapshot in each of the three situations is `Snapshot.unpressed`, whose cells are all false. -/
theorem resetValueIsAllUnpressed : Obligations.ResetValueIsAllUnpressed := by
  have hreset : State.reset.snap = Snapshot.unpressed := rfl
  refine ⟨?powerOnCells, ?powerOnView, ?construction, ?resetOperation⟩
  case powerOnCells => exact fun c b => hreset ▸ Snapshot.cell_unpressed c b
  case powerOnView => exact hreset ▸ snapV_unpressed
  case construction => exact fun s => ⟨_, s.construct_instances, Snapshot.cell_unpressed⟩
  case resetOperation => exact fun s => ⟨_, exec_reset s, Snapshot.cell_unpressed, snapV_unpressed⟩

end Sys2Proof.Machine
end

