-- ==== Sys2Proof/Proofs/Decoder.lean ====
section
/-! The decoder operations (spec/40_decoder.md): DECODE as a function of what its report shows, the events between two
snapshots, and the two operations on the machine. -/

namespace Sys2Proof.Machine

/-! ## What a report shows -/

/-- The snapshot a report shows: in every cell the current value of that pair (R40, R62). -/
def shown (L : LocusTable) (r : Report) : Snapshot := Snapshot.ofFn (currentValue L r)

@[simp] theorem shown_cell (L : LocusTable) (r : Report) (c : Fin 4) (b : Fin 5) :
    (shown L r).cell c b = currentValue L r c b :=
  Snapshot.cell_ofFn _ c b

theorem shown_eq_iff {L : LocusTable} {r : Report} {v : Snapshot} :
    shown L r = v ↔ ∀ c b, currentValue L r c b = v.cell c b := by
  constructor
  · rintro rfl c b
    exact (shown_cell L r c b).symm
  · intro h
    exact Snapshot.ext_cell fun c b => (shown_cell L r c b).trans (h c b)

section
variable {T : Type} (L : LocusTable) (names : Fin 5 → String) (v : Snapshot) (t : T) {r : Report}

/-- An accepted DECODE replaces the snapshot by what the report shows and hands back the events between the two. -/
theorem decodeStep_accepted (h : 5 ≤ r.length) :
    decodeStep L names v r t = (shown L r, .decoded (eventsBetween names v (shown L r) t)) := by
  obtain ⟨f, -, hbytes, hstep⟩ := decodeStep_long h
  have hsample : sample L f = shown L r := Snapshot.ext_cell fun c b => by
    rw [sample_cell, shown_cell, bit_eq_currentValue hbytes]
  rw [hstep, hsample]

/-- Only the first five bytes are consulted (R22, R61). -/
theorem decodeStep_take (h : 5 ≤ r.length) : decodeStep L names v (r.take 5) t = decodeStep L names v r t := by
  simp only [decodeStep, frame?_take h]

/-- An accepted report gives Decoded of the events, and a short one gives no list. -/
theorem decodeStep_eq_decoded {es : List (Event T)} (h : (decodeStep L names v r t).2 = .decoded es) :
    es = eventsBetween names v (shown L r) t := by
  rcases Nat.lt_or_ge r.length 5 with hshort | hlong
  · simp [decodeStep_short hshort] at h
  · simpa [decodeStep_accepted L names v t hlong, eq_comm] using h

/-- The timestamp has no part in the new snapshot. -/
theorem decodeStep_snapshot_timestamp (t' : T) :
    (decodeStep L names v r t').1 = (decodeStep L names v r t).1 := by
  rcases Nat.lt_or_ge r.length 5 with hshort | hlong
  · simp only [decodeStep_short hshort]
  · simp only [decodeStep_accepted L names v _ hlong]

end

/-- Settles O10: a short report is rejected, an accepted one gives the events, and its frame is that of its first five
bytes. -/
theorem lengthAloneDecidesAcceptance : Obligations.LengthAloneDecidesAcceptance := by
  intro T L names v r t
  have hdecoded (h : 5 ≤ r.length) : ∃ es, (decodeStep L names v r t).2 = .decoded es :=
    ⟨_, by rw [decodeStep_accepted L names v t h]⟩
  refine ⟨⟨fun hrejected => ?_, fun hshort => ?_⟩, hdecoded, decodeStep_take L names v t, nofun⟩
  · by_contra hlong
    obtain ⟨es, hes⟩ := hdecoded (by omega)
    exact absurd (hrejected.symm.trans hes) nofun
  · rw [decodeStep_short hshort]

/-- Settles O13: the new snapshot is what the report shows, in which neither the old snapshot nor the timestamp occurs. -/
theorem acceptedDecodeReplacesTheSnapshot : Obligations.AcceptedDecodeReplacesTheSnapshot := by
  intro T L names v r t h
  have hnew (v' : Snapshot) (t' : T) : (decodeStep L names v' r t').1 = shown L r := by
    rw [decodeStep_accepted L names v' t' h]
  exact ⟨fun c b => by rw [hnew, shown_cell], fun v' t' => (hnew v' t').trans (hnew v t).symm⟩

/-! ## The events between two snapshots -/

section
variable {T : Type} (names : Fin 5 → String) (v w : Snapshot) (t : T)

/-- The edge rule as the list of a pair's actions (R63). -/
theorem edge_toList (prev cur : Bool) : (edge prev cur).toList =
    if prev = false ∧ cur = true then [.pressed] else if prev = true ∧ cur = false then [.released] else [] := by
  revert prev cur; decide

/-- The actions of one pair's events are those of the edge rule. -/
theorem eventsOfPair_actions (c : Fin 4) (b : Fin 5) :
    (eventsOfPair (eventsBetween names v w t) c b).map Event.action = (edge (v.cell c b) (w.cell c b)).toList := by
  rw [eventsOfPair_eventsBetween, eventAt]
  cases edge (v.cell c b) (w.cell c b) <;> rfl

theorem edge_eq_none_iff {prev cur : Bool} : edge prev cur = none ↔ prev = cur := by
  revert prev cur; decide

/-- No event means that no cell changed: the converse of `eventsBetween_self`. -/
theorem eventsBetween_eq_nil_iff : eventsBetween names v w t = [] ↔ v = w := by
  constructor
  · intro h
    refine Snapshot.ext_cell fun c b => edge_eq_none_iff.1 ?_
    have hpair := eventsOfPair_actions names v w t c b
    rw [h] at hpair
    exact Option.toList_eq_nil_iff.1 hpair.symm
  · rintro rfl
    exact eventsBetween_self names v t

variable {v w}

/-- Where two snapshots agree but at one pair, the one event is that pair's. -/
theorem eventsBetween_of_one_edge {c : Fin 4} {b : Fin 5} {a : Action} (ha : edge (v.cell c b) (w.cell c b) = some a)
    (hrest : ∀ c' b', (c', b') ≠ (c, b) → v.cell c' b' = w.cell c' b') :
    eventsBetween names v w t = [⟨c, b, names b, a, t⟩] := by
  have hall : eventsOfPair (eventsBetween names v w t) c b = eventsBetween names v w t := by
    refine List.filter_eq_self.2 fun e he => decide_eq_true ?_
    obtain ⟨hedge, -, -⟩ := mem_eventsBetween.1 he
    by_contra hne
    have hsame := hrest e.controller e.button fun h => hne (Prod.ext_iff.1 h)
    rw [edge_eq_none_iff.2 hsame] at hedge
    exact absurd hedge nofun
  rw [← hall, eventsOfPair_eventsBetween, eventAt_eq_some.2 ⟨a, ha, rfl⟩]
  rfl

end

/-- The enumeration order is lexicographic: controller, then button (R64). -/
theorem place_lt_iff (c c' : Fin 4) (b b' : Fin 5) :
    place (c, b) < place (c', b') ↔ c.val < c'.val ∨ (c = c' ∧ b.val < b'.val) := by
  simp only [place, Fin.ext_iff]
  omega

/-- In a list whose events ascend, an event comes before another exactly when its pair does. -/
theorem index_lt_iff_place_lt {T : Type} {es : List (Event T)}
    (hasc : es.Pairwise fun e e' => place (e.controller, e.button) < place (e'.controller, e'.button))
    {i j : Nat} (hi : i < es.length) (hj : j < es.length) :
    i < j ↔ place (es[i].controller, es[i].button) < place (es[j].controller, es[j].button) := by
  have hup := List.pairwise_iff_getElem.1 hasc
  refine ⟨hup i j hi hj, fun hlt => ?_⟩
  rcases Nat.lt_trichotomy i j with h | rfl | h
  · exact h
  · exact absurd hlt (lt_irrefl _)
  · exact absurd (hup j i hj hi h) (lt_asymm hlt)

/-- Settles O14: the new snapshot is what the report shows, and each pair's events follow the edge rule against it. -/
theorem edgesMakeTheEvents : Obligations.EdgesMakeTheEvents := by
  intro T L names v r t h
  refine ⟨_, _, decodeStep_accepted L names v t h, shown_cell L r, fun c b => ?_⟩
  rw [eventsOfPair_actions, shown_cell, edge_toList]

/-- Settles O15: the events ascend in the enumeration order, which is lexicographic. -/
theorem eventsStandInPairOrder : Obligations.EventsStandInPairOrder := by
  intro T L names v r t es hes i j hi hj
  have hasc := eventsBetween_ascending names v (shown L r) t
  rw [← decodeStep_eq_decoded L names v t hes] at hasc
  exact (index_lt_iff_place_lt hasc hi hj).trans (place_lt_iff _ _ _ _)

/-- Settles O18: each property is a fact about the events between the old snapshot and what the report shows. -/
theorem sourcePropertiesOfTheDecoder : Obligations.SourcePropertiesOfTheDecoder := by
  intro T L names v
  refine ⟨?noTransition, ?oneTransition, ?order, fun r t hshort => decodeStep_short hshort L names v t⟩
  case noTransition =>
    intro r t h hsame
    rw [decodeStep_accepted L names v t h, shown_eq_iff.2 hsame, eventsBetween_self]
  case oneTransition =>
    intro r r' t t' t'' c b h h' hup hdown hrest v1 v2 hv1 hv2
    rw [decodeStep_accepted L names v t h] at hv1
    rw [decodeStep_accepted L names v1 t' h'] at hv2
    subst hv1 hv2
    have hcells (c' b') (hne : (c', b') ≠ (c, b)) : (shown L r').cell c' b' = (shown L r).cell c' b' := by
      simpa using hrest c' b' hne
    constructor
    · have hedge : edge ((shown L r).cell c b) ((shown L r').cell c b) = some .pressed := by simp [hup, hdown, edge]
      rw [decodeStep_accepted L names _ t' h',
        eventsBetween_of_one_edge names t' hedge fun c' b' hne => (hcells c' b' hne).symm]
    · have hedge : edge ((shown L r').cell c b) ((shown L r).cell c b) = some .released := by simp [hup, hdown, edge]
      rw [decodeStep_accepted L names _ t'' h, eventsBetween_of_one_edge names t'' hedge hcells]
  case order =>
    intro r t es hes
    rw [decodeStep_eq_decoded L names v t hes]
    exact eventsBetween_ascending names v (shown L r) t

/-! ## DECODE and ISVALIDPRESS on the machine -/

/-- Writing back the snapshot in use changes nothing. -/
@[simp] theorem State.setSnap_self (s : State) : s.setSnap s.snap = s := rfl

/-- DECODE completes in every state (R60). -/
theorem exec_decode (r : Report) (t : Time) (s : State) :
    exec (.decode r t) s =
      .next ((s.setSnap (decodeStep locus Config.buttonName s.snap r t).1).answerDecoder
        (.decode (decodeStep locus Config.buttonName s.snap r t).2)) := rfl

/-- A short DECODE only hands back `Rejected`; its timestamp has no part in that (R67). -/
theorem exec_decode_short {r : Report} (h : r.length < 5) (t : Time) (s : State) :
    exec (.decode r t) s = .next (s.answerDecoder (.decode .rejected)) := by
  rw [exec_decode, decodeStep_short h, State.setSnap_self]

/-- Settles O11: a rejected DECODE writes back the snapshot it found. -/
theorem rejectedDecodeChangesNothing : Obligations.RejectedDecodeChangesNothing := by
  intro s r t h
  refine ⟨exec_decode_short h t s, fun t' => ?_, fun T L names v r' u t' => ?_⟩
  · rw [exec_decode_short h t', exec_decode_short h t]
  · rw [decodeStep_short h]

/-- ISVALIDPRESS completes in every state, with DECODE's effect on the snapshot (R72). -/
theorem exec_isValidPress (r : Report) (t : Time) (s : State) :
    exec (.isValidPress r t) s =
      .next ((s.setSnap (decodeStep locus Config.buttonName s.snap r t).1).answerDecoder
        (.boolean (hasEvent (decodeStep locus Config.buttonName s.snap r t).2))) := rfl

theorem hasEvent_eq_true_iff {T : Type} {d : DecodeResult T} : hasEvent d = true ↔ ∃ es, es ≠ [] ∧ d = .decoded es := by
  rcases d with _ | (_ | ⟨e, es⟩) <;> simp [hasEvent]

/-- There is an event exactly when the snapshot changes, so the boolean needs no list of events and no timestamp. -/
theorem hasEvent_decodeStep {T : Type} (L : LocusTable) (names : Fin 5 → String) (v : Snapshot) (r : Report) (t : T) :
    hasEvent (decodeStep L names v r t).2 = decide (v ≠ (decodeStep L names v r t).1) := by
  rw [Bool.eq_iff_iff, decide_eq_true_iff, hasEvent_eq_true_iff]
  rcases Nat.lt_or_ge r.length 5 with hshort | hlong
  · simp [decodeStep_short hshort]
  · simp [decodeStep_accepted L names v t hlong, eventsBetween_eq_nil_iff]

theorem snapV_injective : Function.Injective snapV := by
  intro v w h
  refine Snapshot.ext_cell fun c b => ?_
  have hlane := congrArg (fun x => x.getLsbD (flatIndex c b).val) h
  simpa only [snapV_lane, controllerOf_flatIndex, buttonOf_flatIndex] using hlane

/-- CHANGED is 0 exactly when no cell changed (R68). -/
theorem changedV_eq_zero_iff {v w : Snapshot} : changedV (snapV v) (snapV w) = 0 ↔ v = w := by
  have hxor : changedV (snapV v) (snapV w) = 0#20 ↔ snapV w = snapV v := BitVec.xor_eq_zero_iff
  exact hxor.trans (snapV_injective.eq_iff.trans eq_comm)

/-- ISVALIDPRESS answers whether it changed the snapshot. -/
theorem exec_isValidPress_changed (r : Report) (t : Time) (s : State) :
    exec (.isValidPress r t) s =
      .next ((s.setSnap (decodeStep locus Config.buttonName s.snap r t).1).answerDecoder
        (.boolean (decide (s.snap ≠ (decodeStep locus Config.buttonName s.snap r t).1)))) := by
  rw [exec_isValidPress, hasEvent_decodeStep]

/-- The timestamp of an ISVALIDPRESS is dropped. -/
theorem exec_isValidPress_timestamp (r : Report) (t t' : Time) (s : State) :
    exec (.isValidPress r t') s = exec (.isValidPress r t) s := by
  rw [exec_isValidPress_changed, exec_isValidPress_changed, decodeStep_snapshot_timestamp _ _ _ t t']

/-- An accepted ISVALIDPRESS leaves what the report shows and answers whether that is news. -/
theorem exec_isValidPress_accepted {r : Report} (h : 5 ≤ r.length) (t : Time) (s : State) :
    exec (.isValidPress r t) s =
      .next ((s.setSnap (shown locus r)).answerDecoder (.boolean (decide (s.snap ≠ shown locus r)))) := by
  rw [exec_isValidPress_changed, decodeStep_accepted _ _ _ _ h]

/-- Settles O28: there is an event exactly when the snapshot changes; the worked example shows the same report twice. -/
theorem isValidPressAnswersAndMutates : Obligations.IsValidPressAnswersAndMutates := by
  constructor
  · intro s r t
    have hshort (h : r.length < 5) : hasEvent (decodeStep locus Config.buttonName s.snap r t).2 = false := by
      rw [decodeStep_short h, hasEvent]
    refine ⟨_, exec_isValidPress r t s, hasEvent_eq_true_iff, fun t' => exec_isValidPress_timestamp r t t' s, hshort, ?_⟩
    rw [ne_eq, changedV_eq_zero_iff, hasEvent_decodeStep, decide_eq_true_iff]
    refine ⟨fun hne => ⟨?_, hne⟩, And.right⟩
    by_contra hlt
    exact hne (by rw [decodeStep_short (by omega)])
  · intro s t t' hs
    have hcell : (shown locus [0, 0, 1, 0, 240]).cell 0 0 = true := by decide
    have hnews : s.snap ≠ shown locus [0, 0, 1, 0, 240] := by
      intro heq
      rw [← heq, hs, Snapshot.cell_unpressed] at hcell
      exact absurd hcell nofun
    refine ⟨_, _, exec_isValidPress_accepted (by decide) t s, ?_, hcell, exec_isValidPress_accepted (by decide) t' _, ?_⟩
    · rw [decide_eq_true hnews, State.answerDecoder_outputs, State.setSnap_earlier, State.setSnap_outputs]
    · simp

end Sys2Proof.Machine
end

