-- ==== Sys2Proof/Proofs/LedEncoder.lean ====
section
/-! The LED encoder's ENCODE (spec/41_led_encoder.md): completion and frame, each byte of the command, and the LED
states in which no channel is lit. -/

namespace Sys2Proof.Machine

/-- ENCODE completes for every LED state; it hands back the command and changes nothing else (R80). -/
theorem exec_encode (m : LedState) (s : State) :
    exec (.encode m) s = .next (s.answerEncoder (.command (commandOf m))) := rfl

/-- A channel is lit exactly when its number is a key with value true (R81). -/
theorem isLit_eq_true_iff {m : LedState} {N : Fin 4} : isLit m N = true ↔ m.lookup (.integer N.val) = some true :=
  beq_iff_eq

/-- A channel's byte, by what the map holds at that channel. -/
theorem commandOf_channel_lookup (m : LedState) (N : Fin 4) :
    (commandOf m)[2 + N.val] = if m.lookup (.integer N.val) = some true then 0xFF#8 else 0x00#8 := by
  simp only [commandOf_channel, channelByte, isLit_eq_true_iff]

/-- With no entries no channel is lit (R81). -/
@[simp] theorem isLit_nil (N : Fin 4) : isLit [] N = false := rfl

/-- The total LED state with no channel lit encodes as the empty one (R81). -/
theorem commandOf_allFalse : commandOf (ledOf fun _ => false) = commandOf [] :=
  commandOf_congr fun N => by rw [isLit_ledOf, isLit_nil]

/-- Settles O29: the bytes are the command's, read through the lookup of each channel. -/
theorem encodeGivesTheCommand : Obligations.EncodeGivesTheCommand := by
  refine ⟨fun s m => ?everyState, ?sourceExample, ?emptyExample, commandOf_allFalse⟩
  case everyState =>
    obtain ⟨hbyte0, hbyte1⟩ := commandOf_header m
    exact ⟨commandOf m, exec_encode m s, hbyte0, hbyte1, commandOf_channel_lookup m⟩
  case sourceExample => decide
  case emptyExample => decide

end Sys2Proof.Machine
end

