-- ==== Sys2Proof/Proofs/Patterns.lean ====
section
/-! The LED pattern constructors (spec/42_pattern_constructors.md): what each hands back, the channels its pattern lights,
and LIT of the total LED state it makes. -/

namespace Sys2Proof.Machine

/-! ## Total LED states -/

/-- The entries of a total LED state, channels ascending (R87, D15). -/
theorem ledOf_entries (lit : Fin 4 → Bool) :
    ledOf lit = [(.integer 0, lit 0), (.integer 1, lit 1), (.integer 2, lit 2), (.integer 3, lit 3)] := rfl

/-- Bit N of LIT is whether channel N is lit (R47). -/
@[simp] theorem litV_getLsbD (m : LedState) (N : Fin 4) : (litV m).getLsbD N.val = isLit m N := by
  simp [litV]

/-- LIT of a total LED state is any vector whose bits are the pattern. -/
theorem litV_ledOf_eq {lit : Fin 4 → Bool} {v : BitVec 4} (h : ∀ N : Fin 4, lit N = v.getLsbD N.val) :
    litV (ledOf lit) = v := by
  apply BitVec.eq_of_getLsbD_eq
  intro i hi
  have hbit := litV_getLsbD (ledOf lit) ⟨i, hi⟩
  rw [hbit, isLit_ledOf, h]

/-! ## ALLON and ALLOFF -/

/-- ALLON completes in every state with every channel lit (R88). -/
theorem exec_allOn (s : State) : exec .allOn s = .next (s.answerEncoder (.led (ledOf fun _ => true))) := rfl

/-- ALLOFF completes in every state with no channel lit (R89). -/
theorem exec_allOff (s : State) : exec .allOff s = .next (s.answerEncoder (.led (ledOf fun _ => false))) := rfl

theorem litV_allLit : litV (ledOf fun _ => true) = 0b1111#4 := litV_ledOf_eq (by decide)

theorem litV_noneLit : litV (ledOf fun _ => false) = 0b0000#4 := litV_ledOf_eq (by decide)

/-- Settles O35: both results are total LED states with a constant pattern. -/
theorem constantPatterns : Obligations.ConstantPatterns := by
  refine ⟨_, _, ledOf_entries fun _ => true, ledOf_entries fun _ => false, exec_allOn, exec_allOff,
    litV_allLit, litV_noneLit, ?onCommand, ?offCommand, commandOf_allFalse⟩
  case onCommand => decide
  case offCommand => decide

/-! ## SINGLE -/

/-- SINGLE completes for every integer (R90). -/
theorem exec_single (c : Int) (s : State) :
    exec (.single (.integer c)) s = .next (s.answerEncoder (.led (ledOf (singlePattern c)))) := rfl

/-- SINGLE refuses a non-integer (R105, U4). -/
theorem exec_single_notInteger (s : State) : exec (.single .notInteger) s = .refused .nonIntegerOperand := rfl

/-- Out of range SINGLE lights no channel (R90). -/
theorem singlePattern_out_of_range {c : Int} (h : c < 0 ∨ 3 < c) : singlePattern c = fun _ => false := by
  funext N
  have hne : c ≠ N.val := by omega
  simp [singlePattern, hne]

/-- In range the pattern is a one shifted to the operand's place. -/
theorem litV_singlePattern {c : Int} (h : 0 ≤ c ∧ c ≤ 3) : litV (ledOf (singlePattern c)) = 1#4 <<< c.toNat := by
  have hbits : ∀ k N : Fin 4, singlePattern k.val N = (1#4 <<< k.val).getLsbD N.val := by decide
  obtain ⟨k, rfl⟩ : ∃ k : Fin 4, c = k.val := ⟨⟨c.toNat, by omega⟩, by simp [h.1]⟩
  exact litV_ledOf_eq (hbits k)

/-- Settles O36: out of range the pattern is ALLOFF's. -/
theorem singleLightsOneChannel : Obligations.SingleLightsOneChannel := by
  refine ⟨fun s c => ⟨_, exec_single c s, ledOf_entries (singlePattern c), litV_singlePattern, ?outOfRange, ?sourceExample⟩,
    exec_single_notInteger⟩
  case outOfRange =>
    intro h
    rw [exec_single, exec_allOff, singlePattern_out_of_range h]
    exact ⟨litV_noneLit, rfl⟩
  case sourceExample =>
    rintro rfl
    decide

/-! ## COUNTUPTO -/

/-- COUNTUPTO completes for every integer (R91). -/
theorem exec_countUpTo (n : Int) (s : State) :
    exec (.countUpTo (.integer n)) s = .next (s.answerEncoder (.led (ledOf (countPattern n)))) := rfl

/-- COUNTUPTO refuses a non-integer (R105, U4). -/
theorem exec_countUpTo_notInteger (s : State) : exec (.countUpTo .notInteger) s = .refused .nonIntegerOperand := rfl

theorem clamp_eq_min_max (n : Int) : clamp n 0 4 = min (max n 0) 4 := by
  unfold clamp
  split_ifs <;> omega

/-- The clamp loses no channel: those below the clamped operand are those below the operand. -/
theorem countPattern_eq (n : Int) (N : Fin 4) : countPattern n N = decide ((N.val : Int) < n) := by
  rw [countPattern, clamp_eq_min_max, decide_eq_decide]
  omega

/-- COUNTUPTO reads its operand through the clamp only (R91). -/
theorem countPattern_clamp (n : Int) : countPattern (min (max n 0) 4) = countPattern n := by
  funext N
  rw [countPattern_eq, countPattern, clamp_eq_min_max]

/-- Operands with one clamp have one outcome. -/
theorem exec_countUpTo_congr {n n' : Int} (h : min (max n 0) 4 = min (max n' 0) 4) (s : State) :
    exec (.countUpTo (.integer n)) s = exec (.countUpTo (.integer n')) s := by
  rw [exec_countUpTo, exec_countUpTo, ← countPattern_clamp n, h, countPattern_clamp]

/-- The entries COUNTUPTO hands back, without the clamp. -/
theorem ledOf_countPattern (n : Int) :
    ledOf (countPattern n) = [(.integer 0, decide (0 < n)), (.integer 1, decide (1 < n)), (.integer 2, decide (2 < n)),
      (.integer 3, decide (3 < n))] := by
  simp only [ledOf_entries, countPattern_eq]
  rfl

/-- The pattern is as many ones as the clamp counts, from bit 0 up. -/
theorem litV_countPattern (n : Int) :
    litV (ledOf (countPattern n)) = (1#4 <<< (min (max n 0) 4).toNat) - 1#4 := by
  have hbits : ∀ (k : Fin 5) (N : Fin 4), countPattern k.val N = ((1#4 <<< k.val) - 1#4).getLsbD N.val := by decide
  obtain ⟨k, hk⟩ : ∃ k : Fin 5, min (max n 0) 4 = (k.val : Int) :=
    ⟨⟨(min (max n 0) 4).toNat, by omega⟩, by simp⟩
  rw [← countPattern_clamp, hk, Int.toNat_natCast]
  exact litV_ledOf_eq (hbits k)

/-- Settles O37: the outcome depends on the clamped operand only. -/
theorem countUpToLightsTheFirst : Obligations.CountUpToLightsTheFirst := by
  refine ⟨fun s n => ⟨_, exec_countUpTo n s, ledOf_countPattern n, litV_countPattern n, fun h => ?above, fun h => ?below,
    ?sourceExample⟩, exec_countUpTo_notInteger⟩
  case above => exact exec_countUpTo_congr (by omega) s
  case below => exact exec_countUpTo_congr (by omega) s
  case sourceExample =>
    rintro rfl
    decide

end Sys2Proof.Machine
end

