-- ==== Sys2Proof/Proofs/Exceptions.lean ====
section
/-! Operands out of range (R102) and the totality of every operation on its operand domain (R103). -/

namespace Sys2Proof.Machine

/-! ## ALTERNATING and ISVALIDCHANNELNUMBER -/

/-- ALTERNATING completes for both operands (R92). -/
theorem exec_alternating (p : BitVec 1) (s : State) :
    exec (.alternating p) s = .next (s.answerEncoder (.led (ledOf (parityPattern p)))) := rfl

/-- ISVALIDCHANNELNUMBER completes for every operand, an integer or not (R97). -/
theorem exec_isValidChannelNumber (x : Number) (s : State) :
    exec (.isValidChannelNumber x) s = .next (s.answerEncoder (.boolean (isChannelNumber x))) := rfl

/-! ## Operands out of range -/

/-- Out of range an integer is no channel number (R97). -/
theorem isChannelNumber_out_of_range {n : Int} (h : n < 1 ∨ 4 < n) : isChannelNumber (.integer n) = false := by
  rw [isChannelNumber, Bool.and_eq_false_iff, decide_eq_false_iff_not, decide_eq_false_iff_not]
  omega

/-- ENCODE reads an LED state through its lit channels only (R80). -/
theorem exec_encode_congr {m m' : LedState} (h : ∀ N, isLit m N = isLit m' N) (s : State) :
    exec (.encode m) s = exec (.encode m') s := by
  rw [exec_encode, exec_encode, commandOf_congr h]

/-- An entry of another key lights no channel and hides none (R82). -/
theorem isLit_cons_of_ne {k : Number} {N : Fin 4} (h : k ≠ channelKey N) (lit : Bool) (m : LedState) :
    isLit ((k, lit) :: m) N = isLit m N := by
  have hkey : (channelKey N == k) = false := beq_false_of_ne h.symm
  simp only [isLit, List.lookup_cons, hkey]

/-- The first entry of a channel's own key decides that channel. -/
theorem isLit_cons_self (N : Fin 4) (lit : Bool) (m : LedState) : isLit ((channelKey N, lit) :: m) N = lit := by
  simp [isLit]

/-- A missing channel is unlit (R81). -/
theorem isLit_of_missing {m : LedState} {N : Fin 4} (h : m.lookup (channelKey N) = none) : isLit m N = false := by
  simp [isLit, h]

/-- Entering a missing channel as unlit changes no channel (R81). -/
theorem isLit_cons_missing_unlit {m : LedState} {N : Fin 4} (h : m.lookup (channelKey N) = none) (M : Fin 4) :
    isLit ((channelKey N, false) :: m) M = isLit m M := by
  by_cases hkey : channelKey N = channelKey M
  · have hM : m.lookup (channelKey M) = none := hkey ▸ h
    rw [hkey, isLit_cons_self, isLit_of_missing hM]
  · exact isLit_cons_of_ne hkey false m

/-- Settles O40: each operand out of range is read as one in range (an unlit pattern, the clamped count, the LED state
without the key, the answer false), and the operation completes with that reading's outcome. -/
theorem outOfRangeIsNeverAnError : Obligations.OutOfRangeIsNeverAnError := by
  intro s n m
  refine ⟨fun h => ⟨?single, _, exec_single n s⟩, ⟨?countUpTo, _, exec_countUpTo n s⟩,
    fun k lit h => ⟨?foreignKey, _, exec_encode _ s⟩, fun N h => ?missingChannel, fun h => ?channelNumber⟩
  case single => rw [exec_single, exec_allOff, singlePattern_out_of_range h]
  case countUpTo => exact exec_countUpTo_congr (by omega) s
  case foreignKey => exact exec_encode_congr (fun N => isLit_cons_of_ne (h N) lit m) s
  case missingChannel => exact exec_encode_congr (fun M => (isLit_cons_missing_unlit h M).symm) s
  case channelNumber =>
    rw [exec_isValidChannelNumber, isChannelNumber_out_of_range h]
    rfl

/-! ## Totality -/

/-- A number that has an integer is one. -/
theorem eq_integer_of_toInt?_isSome {x : Number} (h : x.toInt?.isSome = true) : ∃ n, x = .integer n := by
  cases x with
  | integer n => exact ⟨n, rfl⟩
  | notInteger => cases h

/-- Settles O45: each operation's own lemma says with which next state it completes; the operand domain is needed for
SINGLE and COUNTUPTO, whose operand is then an integer. -/
theorem noOperationStopsTheBlock : Obligations.NoOperationStopsTheBlock := by
  intro i s hdomain
  cases i with
  | decode report t => exact ⟨_, exec_decode report t s⟩
  | reset => exact ⟨_, exec_reset s⟩
  | isValidPress report t => exact ⟨_, exec_isValidPress report t s⟩
  | encode m => exact ⟨_, exec_encode m s⟩
  | allOn => exact ⟨_, exec_allOn s⟩
  | allOff => exact ⟨_, exec_allOff s⟩
  | single c =>
    obtain ⟨n, rfl⟩ := eq_integer_of_toInt?_isSome hdomain
    exact ⟨_, exec_single n s⟩
  | countUpTo c =>
    obtain ⟨n, rfl⟩ := eq_integer_of_toInt?_isSome hdomain
    exact ⟨_, exec_countUpTo n s⟩
  | alternating p => exact ⟨_, exec_alternating p s⟩
  | isValidChannelNumber x => exact ⟨_, exec_isValidChannelNumber x s⟩

end Sys2Proof.Machine
end

/-! The remaining families: requests and their ports, one step and what every step keeps, the decoder's results as
signals, and the encoder's commands and channel numbers. -/

namespace Sys2Proof.Machine

/-! ## Requests -/

/-- The row of R50 that an operation has. -/
theorem selectorRow (i : Instr) : Laws.SelectorRow.Statement i := by
  cases i with
  | decode report t => exact Laws.SelectorRow.decode report t
  | reset => exact Laws.SelectorRow.reset
  | isValidPress report t => exact Laws.SelectorRow.isValidPress report t
  | encode m => exact Laws.SelectorRow.encode m
  | allOn => exact Laws.SelectorRow.allOn
  | allOff => exact Laws.SelectorRow.allOff
  | single c => exact Laws.SelectorRow.single c
  | countUpTo n => exact Laws.SelectorRow.countUpTo n
  | alternating p => exact Laws.SelectorRow.alternating p
  | isValidChannelNumber x => exact Laws.SelectorRow.isValidChannelNumber x

@[simp] theorem encode_op (i : Instr) : (encode i).op = i.selector := by
  obtain ⟨-, -, hop, -⟩ := selectorRow i
  exact hop

/-- A well-formed operation comes back from its request. -/
theorem decodeRequest_encode {i : Instr} (h : WellFormed i) : decodeRequest (encode i) = .ok i := by
  obtain ⟨-, -, -, hdecodes⟩ := selectorRow i
  exact hdecodes h

/-- The decoder's operations are those with selectors 0, 1 and 2 (D2). -/
theorem usesDecoder_iff_selector_lt {i : Instr} : usesDecoder i = true ↔ i.selector.toNat < 3 := by
  obtain ⟨-, hunit, -, -⟩ := selectorRow i
  exact hunit

/-- Whatever decodes is well formed and has the selector it was asked by. -/
theorem decodeRequest_eq_ok {rq : Request} {i : Instr} (h : decodeRequest rq = .ok i) :
    WellFormed i ∧ i.selector = rq.op := by
  unfold decodeRequest at h
  split at h
  case h_4 hop =>
    split at h
    case isTrue hwf => cases h; exact ⟨hwf, BitVec.eq_of_toNat_eq hop.symm⟩
    case isFalse => cases h
  case h_11 => cases h
  all_goals
    rename_i hop
    cases h
    exact ⟨rfl, BitVec.eq_of_toNat_eq hop.symm⟩

/-- Selectors 10 to 15 select nothing (R51, D21). -/
theorem decodeRequest_unused {rq : Request} (h : 10 ≤ rq.op.toNat) :
    decodeRequest rq = .error (.noSuchOperation rq.op) := by
  unfold decodeRequest
  split
  case h_11 => rfl
  all_goals omega

/-- Settles O6: each request is the one its operation is encoded as. -/
theorem writtenRequestsDecode : Obligations.WrittenRequestsDecode :=
  ⟨fun t => decodeRequest_encode (i := .decode [0, 0, 1, 0, 240] t) rfl,
    decodeRequest_encode (i := .reset) rfl,
    decodeRequest_encode (i := .encode [(.integer 3, true)]) (by decide),
    decodeRequest_encode (i := .single (.integer (-1))) rfl,
    decodeRequest_encode (i := .alternating 1) rfl,
    decodeRequest_encode (i := .isValidChannelNumber .notInteger) rfl⟩

/-- Settles O7: the encoder writes the operation's selector, from which the decoder read it. -/
theorem requestsEncodeAndDecode : Obligations.RequestsEncodeAndDecode := by
  refine ⟨fun i h => decodeRequest_encode h, fun rq i h => ?_⟩
  obtain ⟨hwf, hop⟩ := decodeRequest_eq_ok h
  exact ⟨hwf, hop, (encode_op i).trans hop⟩

/-! ## Operands at the ports -/

/-- The report rebuilt from a report's length and first five bytes has these bytes, and zeros for the others (D4). -/
theorem reportOfPorts_firstFive (r : Report) :
    reportOfPorts r.length (firstFive r) = r.take 5 ++ List.replicate (r.length - 5) 0#8 := by
  have hbytes : (firstFive r).toList.take r.length = r.take 5 := by
    rcases r with _ | ⟨_, _ | ⟨_, _ | ⟨_, _ | ⟨_, _ | ⟨_, r⟩⟩⟩⟩⟩ <;> simp [firstFive]
  rw [reportOfPorts, hbytes]

/-- A report of up to five bytes is presented whole. -/
theorem reportOfPorts_firstFive_of_le {r : Report} (h : r.length ≤ 5) :
    reportOfPorts r.length (firstFive r) = r := by
  rw [reportOfPorts_firstFive, List.take_of_length_le h, Nat.sub_eq_zero_of_le h, List.replicate_zero, List.append_nil]

/-- What `reportFits` asks for: few enough bytes, a length in range, a timestamp its port brings back. -/
theorem reportFits_iff {w : PortWidths} {clock : TimePort Time w.time} {r : Report} {t : Time} :
    reportFits w clock r t = true ↔ r.length ≤ 5 ∧ r.length < 2 ^ w.len ∧ clock.read (clock.write t) = t := by
  simp [reportFits, and_assoc]

/-- A report that fits comes back from its length port and its five byte ports. -/
theorem reportOfPorts_of_fits {w : Nat} {r : Report} (hfive : r.length ≤ 5) (hlen : r.length < 2 ^ w) :
    reportOfPorts (BitVec.ofNat w r.length).toNat (firstFive r) = r := by
  rw [BitVec.toNat_ofNat, Nat.mod_eq_of_lt hlen, reportOfPorts_firstFive_of_le hfive]

theorem signedFits_iff {w : Nat} {k : Int} :
    signedFits w k = true ↔ -(2 : Int) ^ w ≤ 2 * k ∧ 2 * k < (2 : Int) ^ w := by
  simp [signedFits]

/-- An integer in range comes back from its two's complement. -/
theorem toInt_ofInt_of_signedFits {w : Nat} {k : Int} (h : signedFits w k = true) : (BitVec.ofInt w k).toInt = k := by
  obtain ⟨hlo, hhi⟩ := signedFits_iff.1 h
  rw [BitVec.toInt_ofInt]
  refine Int.bmod_eq_of_le_mul_two ?_ ?_ <;> push_cast <;> omega

/-- A wider port presents whatever a narrower one does. -/
theorem signedFits_mono {w w' : Nat} (hw : w ≤ w') {k : Int} (h : signedFits w k = true) : signedFits w' k = true := by
  rw [signedFits_iff] at h ⊢
  have hpow : (2 : Int) ^ w ≤ 2 ^ w' := pow_le_pow_right₀ (by decide) hw
  omega

theorem numberOfArg_argOfNumber {w : Nat} {x : Number} (h : argFits w x = true) :
    numberOfArg (argOfNumber w x) = x := by
  cases x with
  | integer k => exact congrArg Number.integer (toInt_ofInt_of_signedFits h)
  | notInteger => cases h

/-- The fraction of a fixed-point number is its low part. -/
theorem append_toNat_mod {i f : Nat} (a : BitVec i) (b : BitVec f) : (a ++ b).toNat % 2 ^ f = b.toNat := by
  rw [BitVec.toNat_append, ← Nat.shiftLeft_add_eq_or_of_lt b.isLt, Nat.shiftLeft_eq, Nat.mul_add_mod_self_right,
    Nat.mod_eq_of_lt b.isLt]

theorem numberOfFixed_fixedOfNumber {i f : Nat} {x : Number} (h : fixedFits i f x = true) :
    numberOfFixed (fixedOfNumber i f x) = x := by
  cases x with
  | integer k =>
    rw [fixedOfNumber, numberOfFixed, append_toNat_mod, if_pos BitVec.toNat_zero, BitVec.extractLsb'_append_eq_left,
      toInt_ofInt_of_signedFits h]
  | notInteger =>
    have hfrac : (1#f).toNat ≠ 0 := by
      rw [BitVec.toNat_one (of_decide_eq_true h)]
      exact one_ne_zero
    rw [fixedOfNumber, numberOfFixed, append_toNat_mod, if_neg hfrac]

/-! ## An LED state at the ports -/

/-- Channel `N`'s entry of an LED state, if it has one. -/
def channelEntry (m : LedState) (N : Fin 4) : Option (Number × Bool) := (m.lookup (channelKey N)).map (channelKey N, ·)

theorem channelEntry_of_not_mem {m : LedState} {N : Fin 4} (h : channelKey N ∉ m.map Prod.fst) :
    channelEntry m N = none := by
  have hnone : m.lookup (channelKey N) = none :=
    List.lookup_eq_none_iff.2 fun e he => bne_iff_ne.2 fun heq => h (List.mem_map.2 ⟨e, he, heq.symm⟩)
  rw [channelEntry, hnone, Option.map_none]

theorem channelEntry_cons_self (N : Fin 4) (lit : Bool) (m : LedState) :
    channelEntry ((channelKey N, lit) :: m) N = some (channelKey N, lit) := by
  rw [channelEntry, List.lookup_cons_self, Option.map_some]

theorem channelEntry_cons_of_ne {k : Number} {N : Fin 4} (h : k ≠ channelKey N) (lit : Bool) (m : LedState) :
    channelEntry ((k, lit) :: m) N = channelEntry m N := by
  have hkey : (channelKey N == k) = false := beq_false_of_ne h.symm
  simp only [channelEntry, List.lookup_cons, hkey]

theorem channelKey_injective : Function.Injective channelKey := by
  intro N M h
  simpa [channelKey, Fin.ext_iff] using h

/-- An LED state whose keys are some of the channels `l`, in the order of `l`, is the list of its entries at `l`. -/
theorem filterMap_channelEntry {l : List (Fin 4)} (hl : l.Nodup) {m : LedState}
    (hm : (m.map Prod.fst).Sublist (l.map channelKey)) : l.filterMap (channelEntry m) = m := by
  induction l generalizing m with
  | nil => exact (List.map_eq_nil_iff.1 (List.sublist_nil.1 hm)).symm
  | cons N l ih =>
    obtain ⟨hN, hl'⟩ := List.nodup_cons.1 hl
    have hNkey : channelKey N ∉ l.map channelKey := by
      rwa [List.mem_map_of_injective channelKey_injective]
    rcases List.sublist_cons_iff.1 hm with hskip | ⟨keys, hkeys, hrest⟩
    · rw [List.filterMap_cons_none (channelEntry_of_not_mem fun h => hNkey (hskip.subset h)), ih hl' hskip]
    · obtain ⟨⟨k, lit⟩, m', rfl, rfl, rfl⟩ := List.map_eq_cons_iff.1 hkeys
      have hothers : l.filterMap (channelEntry ((channelKey N, lit) :: m')) = l.filterMap (channelEntry m') :=
        List.filterMap_congr fun M hM =>
          channelEntry_cons_of_ne (fun h => hNkey (List.mem_map.2 ⟨M, hM, h.symm⟩)) lit m'
      rw [List.filterMap_cons_some (channelEntry_cons_self N lit m'), hothers, ih hl' hrest]

/-- The ports `led_present` and `led_val` carry the entries of the channels (R47, D14). -/
theorem ledOfPorts_eq_filterMap (m : LedState) :
    ledOfPorts (BitVec.ofFnLE (isPresent m)) (BitVec.ofFnLE (isLit m)) = channels.filterMap (channelEntry m) := by
  refine List.filterMap_congr fun N _ => ?_
  have hlit (b : Bool) : (some b == some true) = b := by cases b <;> rfl
  cases h : m.lookup (channelKey N) with
  | none => simp [isPresent, channelEntry, h]
  | some b => simp [isPresent, isLit, channelEntry, h]

/-- Settles O8: the selector is the operation's, and each operand comes back from its own port. -/
theorem portsEncodeAndDecode : Obligations.PortsEncodeAndDecode := by
  intro w clock i hwf hfits
  cases i with
  | decode r t =>
    obtain ⟨hfive, hlen, hclock⟩ := reportFits_iff.1 hfits
    show Except.ok (Instr.decode (reportOfPorts (BitVec.ofNat w.len r.length).toNat (firstFive r))
      (clock.read (clock.write t))) = _
    rw [reportOfPorts_of_fits hfive hlen, hclock]
  | isValidPress r t =>
    obtain ⟨hfive, hlen, hclock⟩ := reportFits_iff.1 hfits
    show Except.ok (Instr.isValidPress (reportOfPorts (BitVec.ofNat w.len r.length).toNat (firstFive r))
      (clock.read (clock.write t))) = _
    rw [reportOfPorts_of_fits hfive hlen, hclock]
  | encode m =>
    have hled : ledOfPorts (portsOf w clock (.encode m)).ledPresent (portsOf w clock (.encode m)).ledVal = m :=
      (ledOfPorts_eq_filterMap m).trans (filterMap_channelEntry (by decide) (of_decide_eq_true hfits))
    have hmap : LedState.wf m = true := hwf
    show (if LedState.wf (ledOfPorts _ _) then Except.ok (Instr.encode (ledOfPorts _ _)) else .error Reject.notAMap) = _
    rw [hled, if_pos hmap]
  | single c => exact congrArg (fun x => Except.ok (Instr.single x)) (numberOfArg_argOfNumber hfits)
  | countUpTo n => exact congrArg (fun x => Except.ok (Instr.countUpTo x)) (numberOfArg_argOfNumber hfits)
  | isValidChannelNumber x =>
    exact congrArg (fun x => Except.ok (Instr.isValidChannelNumber x)) (numberOfFixed_fixedOfNumber hfits)
  | reset => rfl
  | allOn => rfl
  | allOff => rfl
  | alternating p => rfl

/-- Every integer the rules tell apart is in the range of four bits (R90, R91, R97). -/
theorem signedFits_of_rule_case {w : Nat} (hw : 4 ≤ w) {k : Int} (hlo : -1 ≤ k) (hhi : k ≤ 5) : signedFits w k = true :=
  signedFits_mono hw (signedFits_iff.2 (by omega))

/-- Settles O51: the smallest permitted widths present each case, and wider ports present as much. -/
theorem permittedWidthsPresentEveryCase : Obligations.PermittedWidthsPresentEveryCase := by
  rintro w clock ⟨hlen, harg, hxInt, hxFrac⟩
  refine ⟨fun r t hfive hclock => ?report, fun k hlo hhi => ?argument, fun k hlo hhi => ?channelNumber,
    decide_eq_true hxFrac⟩
  case report =>
    have hpow : 2 ^ 3 ≤ 2 ^ w.len := Nat.pow_le_pow_right (by decide) hlen
    have hfits : reportFits w clock r t = true := reportFits_iff.2 ⟨hfive, by omega, hclock⟩
    exact ⟨hfits, hfits⟩
  case argument =>
    have hfits : signedFits w.arg k = true := signedFits_of_rule_case harg hlo hhi
    exact ⟨hfits, hfits⟩
  case channelNumber => exact signedFits_of_rule_case hxInt (by omega) hhi

/-- Settles O9: a report of up to five bytes comes back whole, and of a longer one the first five bytes, which are all
that an accepted DECODE consults. -/
theorem portReportsLoseNothing : Obligations.PortReportsLoseNothing := by
  intro T L names v r t
  rcases Nat.le_total r.length 5 with hfive | hfive
  · rw [reportOfPorts_firstFive_of_le hfive]
  · have hport : 5 ≤ (reportOfPorts r.length (firstFive r)).length := by
      simp [reportOfPorts_firstFive, hfive]
    have htake : (reportOfPorts r.length (firstFive r)).take 5 = r.take 5 := by
      simp [reportOfPorts_firstFive, hfive]
    rw [← decodeStep_take L names v t hport, htake, decodeStep_take L names v t hfive]

/-! ## One step, by the oldest pending call -/

section
variable {s s' : State} {k : Nat} {rq : Request} {rest : List Input} {i : Instr}

theorem step_idle (h : s.inputs = []) : step s = .next s := by
  simp only [step, fetch, h]

theorem step_construct (h : s.inputs = .construct :: rest) : step s = .next (s.setInputs rest).construct := by
  simp only [step, fetch, h]

theorem step_resetLine (h : s.inputs = .resetLine k :: rest) (ha : (s.setInputs rest).address k = some s') :
    step s = .next (s'.setSnap Snapshot.unpressed) := by
  simp only [step, fetch, h, fetchResetLine, ha]

theorem step_resetLine_missing (h : s.inputs = .resetLine k :: rest) (ha : (s.setInputs rest).address k = none) :
    step s = .refused (.noSuchInstance k) := by
  simp only [step, fetch, h, fetchResetLine, ha]

/-- A request that is no operation is refused by name (R51, R105). -/
theorem step_request_error {e : Reject} (h : s.inputs = .request k rq :: rest) (he : decodeRequest rq = .error e) :
    step s = .refused (refusalOf e) := by
  simp only [step, fetch, h, fetchRequest, he]

theorem step_request_encoder (h : s.inputs = .request k rq :: rest) (hd : decodeRequest rq = .ok i)
    (hu : usesDecoder i = false) : step s = exec i (s.setInputs rest) := by
  have hfetch : fetchRequest k rq (s.setInputs rest) = .run i (s.setInputs rest) :=
    fetchRequest_eq_run.2 ⟨hd, .inr ⟨hu, rfl⟩⟩
  simp only [step, fetch, h, hfetch]

theorem step_request_decoder (h : s.inputs = .request k rq :: rest) (hd : decodeRequest rq = .ok i)
    (hu : usesDecoder i = true) (ha : (s.setInputs rest).address k = some s') : step s = exec i s' := by
  have hfetch : fetchRequest k rq (s.setInputs rest) = .run i s' := fetchRequest_eq_run.2 ⟨hd, .inl ⟨hu, ha⟩⟩
  simp only [step, fetch, h, hfetch]

theorem step_request_missing (h : s.inputs = .request k rq :: rest) (hd : decodeRequest rq = .ok i)
    (hu : usesDecoder i = true) (ha : (s.setInputs rest).address k = none) : step s = .refused (.noSuchInstance k) := by
  simp only [step, fetch, h, fetchRequest, hd, hu, ha, if_true]

end

/-- Settles O2: a decoder operation runs where turning to its decoder leaves the state, an encoder operation in the
state as it is. -/
theorem stepRunsTheDecodedRequest : Obligations.StepRunsTheDecodedRequest := by
  intro s k rq rest i h hd
  refine ⟨step_request_encoder h hd, fun v hu hv => ?decoder, fun hu hmissing => ?missing⟩
  case decoder => exact step_request_decoder h hd hu (State.address_eq_some.2 ⟨v, hv, rfl⟩)
  case missing => exact step_request_missing h hd hu (State.address_eq_none.2 hmissing)

/-- Settles O3: one equation of `step` for each call that runs no operation. -/
theorem stepsWithoutAnOperation : Obligations.StepsWithoutAnOperation := by
  refine ⟨fun s => step_idle, fun s rest => step_construct, fun s k v rest h hv => ?resetLine,
    fun s k rest h hmissing => ?missing⟩
  case resetLine => exact step_resetLine h (State.address_eq_some.2 ⟨v, hv, rfl⟩)
  case missing => exact step_resetLine_missing h (State.address_eq_none.2 hmissing)

/-- Settles O5: the request decoder's refusal is the step's. -/
theorem unusedSelectorsAreRefused : Obligations.UnusedSelectorsAreRefused :=
  fun _ _ _ _ hop => ⟨decodeRequest_unused hop, fun h => step_request_error h (decodeRequest_unused hop)⟩

/-! ## What an operation hands back -/

/-- A decoder operation runs as a function of the snapshot in use, which is its effect on that decoder alone (R69). -/
theorem exec_decoder {i : Instr} (hu : usesDecoder i = true) : ∃ f : Snapshot → Snapshot × Result,
    (∀ s, exec i s = .next ((s.setSnap (f s.snap).1).answerDecoder (f s.snap).2)) ∧
      ∀ v, operationEffect v i = ((f v).1, [(f v).2]) := by
  cases i with
  | decode r t =>
    exact ⟨fun v => ((decodeStep locus Config.buttonName v r t).1,
      .decode (decodeStep locus Config.buttonName v r t).2), exec_decode r t, fun _ => rfl⟩
  | reset => exact ⟨fun _ => (Snapshot.unpressed, .none), exec_reset, fun _ => rfl⟩
  | isValidPress r t =>
    exact ⟨fun v => ((decodeStep locus Config.buttonName v r t).1,
      .boolean (hasEvent (decodeStep locus Config.buttonName v r t).2)), exec_isValidPress r t, fun _ => rfl⟩
  | encode | allOn | allOff | single | countUpTo | alternating | isValidChannelNumber => cases hu

/-- An encoder operation has no effect on any decoder (R112). -/
theorem operationEffect_encoder {i : Instr} (hu : usesDecoder i = false) (v : Snapshot) :
    operationEffect v i = (v, []) := by
  cases i with
  | decode | reset | isValidPress => cases hu
  | encode | allOn | allOff | single | countUpTo | alternating | isValidChannelNumber => rfl

/-- The command of an LED state is one of the format (R48). -/
theorem commandLegal_commandOf (m : LedState) : commandLegal (commandOf m) := by
  obtain ⟨hbyte0, hbyte1⟩ := commandOf_header m
  refine ⟨hbyte0, hbyte1, fun N => ?_⟩
  rw [commandOf_channel]
  cases isLit m N with
  | false => exact .inl rfl
  | true => exact .inr rfl

/-- A constructor's result is total (R87, D15). -/
theorem ledLegal_ledOf (lit : Fin 4 → Bool) : ledLegal (ledOf lit) := rfl

/-- An encoder operation on its operand domain hands back one legal result, whatever the state. -/
theorem exec_encoder {i : Instr} (hu : usesDecoder i = false) (hdomain : integerOperands i = true) :
    ∃ r, (∀ s, exec i s = .next (s.answerEncoder r)) ∧ ∀ n, (Output.fromEncoder r).legal n := by
  cases i with
  | decode | reset | isValidPress => cases hu
  | encode m => exact ⟨_, exec_encode m, fun _ => commandLegal_commandOf m⟩
  | allOn => exact ⟨_, exec_allOn, fun _ => ledLegal_ledOf _⟩
  | allOff => exact ⟨_, exec_allOff, fun _ => ledLegal_ledOf _⟩
  | single c =>
    obtain ⟨n, rfl⟩ := eq_integer_of_toInt?_isSome hdomain
    exact ⟨_, exec_single n, fun _ => ledLegal_ledOf _⟩
  | countUpTo c =>
    obtain ⟨n, rfl⟩ := eq_integer_of_toInt?_isSome hdomain
    exact ⟨_, exec_countUpTo n, fun _ => ledLegal_ledOf _⟩
  | alternating p => exact ⟨_, exec_alternating p, fun _ => ledLegal_ledOf _⟩
  | isValidChannelNumber x => exact ⟨_, exec_isValidChannelNumber x, fun _ => trivial⟩

/-- What completes had its operand in the domain: a non-integer is refused (R105, U4). -/
theorem integerOperands_of_exec_next {i : Instr} {s t : State} (h : exec i s = .next t) : integerOperands i = true := by
  cases i with
  | single c =>
    cases c with
    | integer n => rfl
    | notInteger => exact absurd (h.symm.trans (exec_single_notInteger s)) nofun
  | countUpTo c =>
    cases c with
    | integer n => rfl
    | notInteger => exact absurd (h.symm.trans (exec_countUpTo_notInteger s)) nofun
  | decode | reset | isValidPress | encode | allOn | allOff | alternating | isValidChannelNumber => rfl

/-- Settles O43: the result is the operation's own, which no state enters. -/
theorem encoderOperationsArePure : Obligations.EncoderOperationsArePure := by
  intro i hu hdomain
  obtain ⟨r, hexec, -⟩ := exec_encoder hu hdomain
  exact ⟨r, hexec⟩

/-- Settles O44: the function is the operation's effect on one decoder. -/
theorem decoderOperationsUseOneSnapshot : Obligations.DecoderOperationsUseOneSnapshot := by
  intro i hu
  obtain ⟨f, hexec, -⟩ := exec_decoder hu
  exact ⟨f, hexec⟩

/-! ## Legal results -/

/-- The events between two snapshots are legal ones, when they carry the machine's names (R45, R64). -/
theorem eventsLegal_eventsBetween {T : Type} (v w : Snapshot) (t : T) :
    eventsLegal (eventsBetween Config.buttonName v w t) := by
  refine ⟨eventsBetween_ascending _ v w t, fun e he => ?_⟩
  obtain ⟨-, hname, -⟩ := mem_eventsBetween.1 he
  exact hname

/-- What an operation hands back from one of the constructed instances is legal. -/
theorem operationEffect_legal {n k : Nat} (hk : k < n) (v : Snapshot) (i : Instr) :
    ∀ r ∈ (operationEffect v i).2, (Output.fromDecoder k r).legal n := by
  cases i with
  | decode report t =>
    intro r hr
    obtain rfl := List.mem_singleton.1 hr
    rcases Nat.lt_or_ge report.length 5 with hshort | hlong
    · rw [decodeStep_short hshort]
      exact hk
    · rw [decodeStep_accepted _ _ _ _ hlong]
      exact ⟨hk, eventsLegal_eventsBetween _ _ _⟩
  | reset =>
    intro r hr
    obtain rfl := List.mem_singleton.1 hr
    exact hk
  | isValidPress report t =>
    intro r hr
    obtain rfl := List.mem_singleton.1 hr
    exact hk
  | encode | allOn | allOff | single | countUpTo | alternating | isValidChannelNumber => exact nofun

/-- The results stay legal when none is added and none of the instances is taken away. -/
theorem State.OutputsLegal.of_same {s t : State} (h : s.OutputsLegal) (hout : t.outputs = s.outputs)
    (hlen : s.instances.length ≤ t.instances.length) : t.OutputsLegal := by
  intro o ho
  rw [hout] at ho
  exact Output.legal_mono hlen (h o ho)

/-- The results stay legal when one legal result is added. -/
theorem State.OutputsLegal.append {s t : State} {o : Output} (h : s.OutputsLegal) (hout : t.outputs = s.outputs ++ [o])
    (hlen : t.instances.length = s.instances.length) (ho : o.legal s.instances.length) : t.OutputsLegal := by
  intro o' ho'
  rw [hlen]
  rw [hout, List.mem_append, List.mem_singleton] at ho'
  rcases ho' with hold | rfl
  · exact h o' hold
  · exact ho

/-- An operation that completes keeps the results legal. -/
theorem exec_keeps_outputsLegal {i : Instr} {s t : State} (h : s.OutputsLegal) (hexec : exec i s = .next t) :
    t.OutputsLegal := by
  cases hu : usesDecoder i with
  | false =>
    obtain ⟨r, hr, hlegal⟩ := exec_encoder hu (integerOperands_of_exec_next hexec)
    obtain rfl : s.answerEncoder r = t := Host.Outcome.next.inj ((hr s).symm.trans hexec)
    exact h.append rfl rfl (hlegal _)
  | true =>
    obtain ⟨f, hf, heffect⟩ := exec_decoder hu
    obtain rfl := Host.Outcome.next.inj ((hf s).symm.trans hexec)
    have hk : s.earlier.length < s.instances.length := by rw [State.instances_length]; omega
    refine h.append rfl (s.setSnap_instances_length _) (operationEffect_legal hk s.snap i _ ?_)
    rw [heffect]
    exact List.mem_singleton_self _

/-- The state in which a fetched request's operation runs: the calls that remain, the same instances and results. -/
theorem runState_keeps {i : Instr} {s s' : State} {k : Nat} {rest : List Input}
    (h : (usesDecoder i = true ∧ (s.setInputs rest).address k = some s') ∨
      (usesDecoder i = false ∧ s' = s.setInputs rest)) :
    s'.instances = s.instances ∧ s'.inputs = rest ∧ s'.outputs = s.outputs := by
  rcases h with ⟨-, ha⟩ | ⟨-, rfl⟩
  · obtain ⟨hinst, -, -, hin, hout⟩ := State.address_spec ha
    exact ⟨hinst, hin, hout⟩
  · exact ⟨rfl, rfl, rfl⟩

/-- Settles O46: a construction, a reset line and turning to another decoder keep the results, and an operation adds one
that is legal. -/
theorem stepKeepsOutputsLegal : Obligations.StepKeepsOutputsLegal := by
  intro s t hs hstep
  rcases step_next hstep with ⟨-, rfl⟩ | ⟨rest, -, rfl⟩ | ⟨k, rest, s', -, ha, rfl⟩ |
    ⟨k, rq, rest, i, s', -, -, hrun, hexec⟩
  case inl => exact hs
  case inr.inl => exact hs.of_same rfl (by simp)
  case inr.inr.inl =>
    obtain ⟨hinst, -, -, -, hout⟩ := State.address_spec ha
    exact hs.of_same hout (by rw [State.setSnap_instances_length, hinst, State.setInputs_instances])
  case inr.inr.inr =>
    obtain ⟨hinst, -, hout⟩ := runState_keeps hrun
    exact exec_keeps_outputsLegal (hs.of_same hout (by rw [hinst])) hexec

/-! ## Calls that are served -/

theorem requestServed_eq_true_iff {n k : Nat} {rq : Request} : requestServed n k rq = true ↔
    ∃ i, decodeRequest rq = .ok i ∧ integerOperands i = true ∧ (usesDecoder i = true → k < n) := by
  unfold requestServed
  cases decodeRequest rq with
  | error e => simp
  | ok i => cases hu : usesDecoder i <;> simp [hu]

/-- An operation that completes keeps the instances' number and the pending calls. -/
theorem exec_keeps_calls {i : Instr} {s t : State} (h : exec i s = .next t) :
    t.instances.length = s.instances.length ∧ t.inputs = s.inputs := by
  rcases exec_next h with ⟨-, r, rfl⟩ | ⟨-, v, r, rfl⟩
  · exact ⟨rfl, rfl⟩
  · exact ⟨s.setSnap_instances_length v, rfl⟩

/-- A servable request is performed. -/
theorem step_request_served {s : State} {k : Nat} {rq : Request} {rest : List Input}
    (h : s.inputs = .request k rq :: rest) (hserved : requestServed s.instances.length k rq = true) :
    ∃ t, step s = .next t ∧ t.instances.length = s.instances.length ∧ t.inputs = rest := by
  obtain ⟨i, hd, hdomain, hk⟩ := requestServed_eq_true_iff.1 hserved
  obtain ⟨s', hstep, hlen, hin⟩ :
      ∃ s', step s = exec i s' ∧ s'.instances.length = s.instances.length ∧ s'.inputs = rest := by
    cases hu : usesDecoder i with
    | false => exact ⟨_, step_request_encoder h hd hu, rfl, rfl⟩
    | true =>
      obtain ⟨s', ha⟩ := State.address_of_lt (s := s.setInputs rest) (hk hu)
      obtain ⟨hinst, -, -, hin, -⟩ := State.address_spec ha
      exact ⟨s', step_request_decoder h hd hu ha, by rw [hinst, State.setInputs_instances], hin⟩
  obtain ⟨t, hexec⟩ := noOperationStopsTheBlock i s' hdomain
  obtain ⟨hlen', hin'⟩ := exec_keeps_calls hexec
  exact ⟨t, hstep.trans hexec, hlen'.trans hlen, hin'.trans hin⟩

/-- From a servable state a step performs the oldest call, and those that remain are servable (LP-NOREFUSE). -/
theorem step_servable {s : State} (h : s.Servable) : ∃ t, step s = .next t ∧ t.Servable ∧ t.inputs = s.inputs.tail := by
  unfold State.Servable at h ⊢
  rcases hin : s.inputs with _ | ⟨_ | ⟨k, rq⟩ | k, rest⟩
  case nil => exact ⟨s, step_idle hin, h, hin⟩
  case cons.construct =>
    rw [hin] at h
    exact ⟨_, step_construct hin, by simpa [inputsServed] using h, rfl⟩
  case cons.request =>
    rw [hin, inputsServed, Bool.and_eq_true] at h
    obtain ⟨hserved, hrest⟩ := h
    obtain ⟨t, hstep, hlen, htail⟩ := step_request_served hin hserved
    exact ⟨t, hstep, by rw [hlen, htail, hrest], htail⟩
  case cons.resetLine =>
    rw [hin, inputsServed, Bool.and_eq_true, decide_eq_true_iff] at h
    obtain ⟨hk, hrest⟩ := h
    obtain ⟨s', ha⟩ := State.address_of_lt (s := s.setInputs rest) hk
    obtain ⟨hinst, -, -, htail, -⟩ := State.address_spec ha
    refine ⟨_, step_resetLine hin ha, ?_, htail⟩
    rw [State.setSnap_instances_length, hinst, State.setInputs_instances, State.setSnap_inputs, htail]
    exact hrest

/-- Settles O47: a servable state steps to a next state, so a refused step did not start in one. -/
theorem servedCallsArePerformed : Obligations.ServedCallsArePerformed := by
  refine ⟨fun s => step_servable, fun s e hrefused hs => ?_⟩
  obtain ⟨t, hnext, -, -⟩ := step_servable hs
  exact absurd (hnext.symm.trans hrefused) nofun

/-- Settles O48: nothing has been asked and nothing answered. -/
theorem invariantsHoldAtReset : Obligations.InvariantsHoldAtReset :=
  ⟨fun _ h => absurd h List.not_mem_nil, rfl⟩

/-- Settles O49: an operation adds one result, no other call any. -/
theorem stepsNeverTakeBack : Obligations.StepsNeverTakeBack := by
  intro s t hstep
  rcases step_next hstep with ⟨-, rfl⟩ | ⟨rest, hin, rfl⟩ | ⟨k, rest, s', -, ha, rfl⟩ |
    ⟨k, rq, rest, i, s', -, -, hrun, hexec⟩
  case inl => exact ⟨.inl rfl, [], by simp⟩
  case inr.inl => exact ⟨.inr ⟨by simp, rest, hin⟩, [], by simp⟩
  case inr.inr.inl =>
    obtain ⟨hinst, -, -, -, hout⟩ := State.address_spec ha
    refine ⟨.inl ?_, [], by simpa using hout⟩
    rw [State.setSnap_instances_length, hinst, State.setInputs_instances]
  case inr.inr.inr =>
    obtain ⟨hinst, -, hout⟩ := runState_keeps hrun
    obtain ⟨hlen, -⟩ := exec_keeps_calls hexec
    refine ⟨.inl (hlen.trans (congrArg List.length hinst)), ?_⟩
    rw [← hout]
    rcases exec_next hexec with ⟨-, r, rfl⟩ | ⟨-, v, r, rfl⟩
    · exact ⟨[_], rfl, le_rfl⟩
    · exact ⟨[_], rfl, le_rfl⟩

/-! ## One decoder among the others -/

theorem resultsOf_append (k : Nat) (l l' : List Output) : resultsOf k (l ++ l') = resultsOf k l ++ resultsOf k l' :=
  List.filterMap_append

theorem resultsOf_answerDecoder (k : Nat) (s : State) (r : Result) :
    resultsOf k (s.answerDecoder r).outputs = resultsOf k s.outputs ++ if s.earlier.length = k then [r] else [] := by
  rw [State.answerDecoder_outputs, resultsOf_append]
  by_cases hk : s.earlier.length = k <;> simp [resultsOf, hk]

theorem resultsOf_answerEncoder (k : Nat) (s : State) (r : Result) :
    resultsOf k (s.answerEncoder r).outputs = resultsOf k s.outputs := by
  rw [State.answerEncoder_outputs, resultsOf_append]
  exact List.append_nil _

theorem callEffect_request {k j : Nat} {v : Snapshot} {rq : Request} {i : Instr} (hd : decodeRequest rq = .ok i) :
    callEffect k v (.request j rq) = if j = k then operationEffect v i else (v, []) := by
  rw [callEffect, hd]

theorem callEffect_request_error {k j : Nat} {v : Snapshot} {rq : Request} {e : Reject}
    (hd : decodeRequest rq = .error e) : callEffect k v (.request j rq) = (v, []) := by
  rw [callEffect, hd]

/-- Writing the snapshot in use, seen from number `k` of the instances. -/
theorem setSnap_instances_of_get {s : State} {k : Nat} {v : Snapshot} (hv : s.instances[k]? = some v) (w : Snapshot) :
    (s.setSnap w).instances[k]? = some (if s.earlier.length = k then w else v) := by
  rw [State.setSnap_instances_get, hv]
  by_cases hk : s.earlier.length = k
  · rw [if_pos hk, if_pos hk.symm]
  · rw [if_neg hk, if_neg (Ne.symm hk)]

section
variable {s t : State} {k : Nat} {v : Snapshot} {i : Instr} (hv : s.instances[k]? = some v)
include hv

/-- A decoder operation has its effect on decoder `k` when it runs on that one, and none otherwise. -/
theorem exec_decoder_effectAt (hu : usesDecoder i = true) (hexec : exec i s = .next t) :
    t.instances[k]? = some (if s.earlier.length = k then operationEffect v i else (v, [])).1 ∧
      resultsOf k t.outputs =
        resultsOf k s.outputs ++ (if s.earlier.length = k then operationEffect v i else (v, [])).2 := by
  obtain ⟨f, hf, heffect⟩ := exec_decoder hu
  obtain rfl := Host.Outcome.next.inj ((hf s).symm.trans hexec)
  rw [State.answerDecoder_instances, setSnap_instances_of_get hv, resultsOf_answerDecoder, State.setSnap_earlier,
    State.setSnap_outputs, heffect]
  by_cases hk : s.earlier.length = k
  · subst hk
    obtain rfl : s.snap = v := Option.some.inj (s.instances_in_use.symm.trans hv)
    simp
  · simp [hk]

/-- An encoder operation has no effect on decoder `k`. -/
theorem exec_encoder_effectAt (hu : usesDecoder i = false) (hexec : exec i s = .next t) :
    t.instances[k]? = some v ∧ resultsOf k t.outputs = resultsOf k s.outputs := by
  rcases exec_next hexec with ⟨-, r, rfl⟩ | ⟨hu', -⟩
  · exact ⟨hv, resultsOf_answerEncoder k s r⟩
  · exact absurd (hu.symm.trans hu') nofun

/-- What a step does to decoder `k` is the effect of the oldest call there. -/
theorem step_effectAt {c : Input} {rest : List Input} (hin : s.inputs = c :: rest) (hstep : step s = .next t) :
    t.inputs = rest ∧ t.instances[k]? = some (callEffect k v c).1 ∧
      resultsOf k t.outputs = resultsOf k s.outputs ++ (callEffect k v c).2 := by
  rcases step_next hstep with ⟨hin', -⟩ | ⟨rest', hin', rfl⟩ | ⟨j, rest', s', hin', ha, rfl⟩ |
    ⟨j, rq, rest', i, s', hin', hd, hrun, hexec⟩ <;>
    rw [hin] at hin'
  case inl => cases hin'
  case inr.inl =>
    cases hin'
    obtain ⟨hk, -⟩ := List.getElem?_eq_some_iff.1 hv
    refine ⟨rfl, ?_, (List.append_nil _).symm⟩
    rw [State.construct_instances, State.setInputs_instances, List.getElem?_append_left hk]
    exact hv
  case inr.inr.inl =>
    cases hin'
    obtain ⟨hinst, rfl, -, htail, hout⟩ := State.address_spec ha
    have hv' : s'.instances[k]? = some v := by rw [hinst]; exact hv
    rw [setSnap_instances_of_get hv', State.setSnap_outputs, hout, callEffect]
    refine ⟨htail, ?_, ?_⟩ <;> split <;> simp
  case inr.inr.inr =>
    cases hin'
    obtain ⟨hinst, htail, hout⟩ := runState_keeps hrun
    obtain ⟨-, hin''⟩ := exec_keeps_calls hexec
    have hv' : s'.instances[k]? = some v := by rw [hinst]; exact hv
    rw [callEffect_request hd, ← hout]
    refine ⟨hin''.trans htail, ?_⟩
    rcases hrun with ⟨hu, ha⟩ | ⟨hu, -⟩
    · obtain ⟨-, rfl, -⟩ := State.address_spec ha
      exact exec_decoder_effectAt hv' hu hexec
    · rw [operationEffect_encoder hu, ite_self, List.append_nil]
      exact exec_encoder_effectAt hv' hu hexec

end

/-- A call that leaves another snapshot is a request for a decoder operation there or the reset line. -/
theorem callEffect_changes {k : Nat} {v : Snapshot} {c : Input} (h : (callEffect k v c).1 ≠ v) :
    (∃ rq, c = .request k rq ∧ rq.op.toNat < 3) ∨ c = .resetLine k := by
  cases c with
  | construct => exact absurd rfl h
  | resetLine j =>
    by_cases hj : j = k
    · exact .inr (by rw [hj])
    · exact absurd (by rw [callEffect, if_neg hj]) h
  | request j rq =>
    cases hd : decodeRequest rq with
    | error e => exact absurd (by rw [callEffect_request_error hd]) h
    | ok i =>
      rw [callEffect_request hd] at h
      by_cases hj : j = k
      · rw [if_pos hj] at h
        cases hu : usesDecoder i with
        | false => exact absurd (by rw [operationEffect_encoder hu]) h
        | true =>
          obtain ⟨-, hop⟩ := decodeRequest_eq_ok hd
          exact .inl ⟨rq, by rw [hj], hop ▸ usesDecoder_iff_selector_lt.1 hu⟩
      · exact absurd (by rw [if_neg hj]) h

/-- Settles O4: the step's effect on a decoder is that of the oldest call. -/
theorem onlyCallsOnAnInstanceChangeIt : Obligations.OnlyCallsOnAnInstanceChangeIt := by
  intro s t k v hstep hv hne
  rcases hin : s.inputs with _ | ⟨c, rest⟩
  · obtain rfl : s = t := Host.Outcome.next.inj ((step_idle hin).symm.trans hstep)
    exact absurd hv hne
  · obtain ⟨-, hv', -⟩ := step_effectAt hv hin hstep
    have hchanged : (callEffect k v c).1 ≠ v := fun h => hne (by rw [hv', h])
    rcases callEffect_changes hchanged with ⟨rq, rfl, hop⟩ | rfl
    · exact ⟨rest, .inl ⟨rq, rfl, hop⟩⟩
    · exact ⟨rest, .inr rfl⟩

/-- A run that answers a next state answered one at its first step. -/
theorem run_succ_eq_next {M : Host.Core} {n : Nat} {s t : M.State} (h : M.run (n + 1) s = .next t) :
    ∃ u, M.step s = .next u ∧ M.run n u = .next t := by
  rw [Host.Core.run] at h
  split at h
  case h_1 u hu => exact ⟨u, hu, h⟩
  case h_2 => cases h
  case h_3 => cases h

/-- What a run of all the pending calls does to decoder `k`, by induction on the calls. -/
theorem run_effectAt {calls : List Input} {s t : State} {k : Nat} {v : Snapshot} (hin : s.inputs = calls)
    (hv : s.instances[k]? = some v) (hrun : Host.Core.run Sys2Proof.core calls.length s = .next t) :
    t.inputs = [] ∧ t.instances[k]? = some (alone k v calls).1 ∧
      resultsOf k t.outputs = resultsOf k s.outputs ++ (alone k v calls).2 := by
  induction calls generalizing s v with
  | nil =>
    obtain rfl : s = t := Host.Outcome.next.inj hrun
    exact ⟨hin, hv, (List.append_nil _).symm⟩
  | cons c rest ih =>
    obtain ⟨u, hstep, hrest⟩ := run_succ_eq_next hrun
    obtain ⟨hin', hv', hout⟩ := step_effectAt hv hin hstep
    obtain ⟨hdone, hlast, hresults⟩ := ih hin' hv' hrest
    refine ⟨hdone, hlast, ?_⟩
    rw [hresults, hout, List.append_assoc]
    rfl

/-- Settles O50: the run's effect on a decoder is that of its own calls alone. -/
theorem instancesDoNotInterfere : Obligations.InstancesDoNotInterfere :=
  fun _ _ _ _ hv hrun => run_effectAt rfl hv hrun

/-! ## DECODE and RESET on the machine -/

/-- Settles O12: DECODE's own equation. -/
theorem decodeCompletes : Obligations.DecodeCompletes := fun s r t => exec_decode r t s

/-- Settles O26: RESET's own equation. -/
theorem resetClearsTheSnapshot : Obligations.ResetClearsTheSnapshot := exec_reset

/-- An accepted DECODE leaves what the report shows and hands back the events between the two snapshots. -/
theorem exec_decode_accepted {r : Report} (h : 5 ≤ r.length) (t : Time) (s : State) :
    exec (.decode r t) s = .next ((s.setSnap (shown locus r)).answerDecoder
      (.decode (.decoded (eventsBetween Config.buttonName s.snap (shown locus r) t)))) := by
  rw [exec_decode, decodeStep_accepted _ _ _ _ h]

/-- Settles O25: the first sight leaves what the report shows, between which and itself there is no event. -/
theorem secondSightIsSilent : Obligations.SecondSightIsSilent := by
  intro s u r t t' h hseen
  have hsnap : u.snap = shown locus r := by
    rw [exec_decode_accepted h, exec_isValidPress_accepted h] at hseen
    rcases hseen with hdecode | hpress
    · cases hdecode; rfl
    · cases hpress; rfl
  rw [exec_decode_accepted h, ← hsnap, eventsBetween_self]
  rfl

/-! ## The fields of events -/

/-- Settles O16: every event between two snapshots has these fields. -/
theorem eventsCarryNameAndTimestamp : Obligations.EventsCarryNameAndTimestamp := by
  intro T L names v r t es hes e he
  rw [decodeStep_eq_decoded L names v t hes] at he
  obtain ⟨-, hfields⟩ := mem_eventsBetween.1 he
  exact hfields

/-- The events between two snapshots at another time are the same but for their timestamps. -/
theorem eventsBetween_timestamp {T : Type} (names : Fin 5 → String) (v w : Snapshot) (t t' : T) :
    eventsBetween names v w t' = (eventsBetween names v w t).map fun e => { e with timestamp := t' } := by
  rw [eventsBetween, eventsBetween, List.map_filterMap]
  refine List.filterMap_congr fun p _ => ?_
  rw [eventAt, eventAt, Option.map_map]
  rfl

/-- Settles O17: neither the snapshot nor the rejection has the timestamp in it. -/
theorem timestampsDecideNothing : Obligations.TimestampsDecideNothing := by
  intro T L names v r t t'
  refine ⟨decodeStep_snapshot_timestamp L names v t t', ?_⟩
  rcases Nat.lt_or_ge r.length 5 with hshort | hlong
  · simp only [decodeStep_short hshort]
    exact ⟨fun _ => trivial, nofun⟩
  · simp only [decodeStep_accepted L names v _ hlong]
    refine ⟨nofun, fun es hes => ?_⟩
    obtain rfl := DecodeResult.decoded.inj hes
    rw [eventsBetween_timestamp]

/-- From the unpressed snapshot there is one press for every cell that is down (R63). -/
theorem eventsBetween_unpressed {T : Type} (names : Fin 5 → String) (w : Snapshot) (t : T) :
    eventsBetween names Snapshot.unpressed w t =
      (pairs.filter fun p => w.cell p.1 p.2).map fun p => ⟨p.1, p.2, names p.2, .pressed, t⟩ := by
  rw [← List.filterMap_eq_map, List.filterMap_filter]
  refine List.filterMap_congr fun p _ => ?_
  cases hcell : w.cell p.1 p.2 <;> simp [eventAt, edge, hcell]

/-- Settles O27: the new snapshot's cells are the report's current values. -/
theorem firstReportGivesOnlyPresses : Obligations.FirstReportGivesOnlyPresses := by
  intro T L names r t h
  rw [decodeStep_accepted L names _ t h, eventsBetween_unpressed]
  simp only [shown_cell]

/-! ## The locus table -/

/-- Settles O21: the table is a finite one, read entry by entry. -/
theorem adoptedTableMeetsTheSource : Obligations.AdoptedTableMeetsTheSource := by
  have hlastRow : ∀ B i, (∃ b, locus.entry 3 b = ⟨B, i⟩) ↔
      (⟨B, i⟩ : Locus) = ⟨3, 7⟩ ∨ (⟨B, i⟩ : Locus) = ⟨4, 0⟩ ∨ (⟨B, i⟩ : Locus) = ⟨4, 1⟩ ∨
        (⟨B, i⟩ : Locus) = ⟨4, 2⟩ ∨ (⟨B, i⟩ : Locus) = ⟨4, 3⟩ := by decide
  constructor
  · exact {
      s1 := by decide
      s2 := by decide
      s3 := by decide
      s4 := by decide
      s5 := fun l => hlastRow l.byteOffset l.bitOffset
      s6 := by decide
      s7 := by decide }
  · decide

/-- A locus bit: any bit of bytes 2 and 3, or one of bits 0 to 3 of byte 4 (R38). -/
def Locus.InUse (l : Locus) : Prop :=
  l.byteOffset = 2 ∨ l.byteOffset = 3 ∨ (l.byteOffset = 4 ∧ l.bitOffset.val < 4)

/-- S2 to S5 keep a table's entries among the locus bits. -/
theorem LocusTable.MeetsSource.entry_inUse {L : LocusTable} (h : L.MeetsSource) (c : Fin 4) (b : Fin 5) :
    (L.entry c b).InUse := by
  match c with
  | 0 => exact .inl (h.s2 b)
  | 1 =>
    obtain ⟨hbytes, -, -⟩ := h.s3
    exact (hbytes b).imp_right .inl
  | 2 => exact .inr (.inl (h.s4 b))
  | 3 =>
    rcases (h.s5 _).1 ⟨b, rfl⟩ with hl | hl | hl | hl | hl <;> rw [hl]
    · exact .inr (.inl rfl)
    all_goals exact .inr (.inr ⟨rfl, by decide⟩)

/-- The entries of a table as a set. -/
def LocusTable.entries (L : LocusTable) : Finset Locus :=
  Finset.univ.image fun p : Fin 4 × Fin 5 => L.entry p.1 p.2

theorem LocusTable.mem_entries {L : LocusTable} {l : Locus} : l ∈ L.entries ↔ ∃ c b, L.entry c b = l := by
  simp [LocusTable.entries]

/-- The adopted table fills the locus bits. -/
theorem locus_entries_of_inUse {l : Locus} (h : l.InUse) : l ∈ locus.entries := by
  have hall : ∀ (B : Fin 5) (i : Fin 8), B = 2 ∨ B = 3 ∨ (B = 4 ∧ i.val < 4) → ∃ c b, locus.entry c b = ⟨B, i⟩ := by
    decide
  exact LocusTable.mem_entries.2 (hall l.byteOffset l.bitOffset h)

/-- Every table that meets S1 to S7 has the entries of the adopted one: its 20 are distinct and among those 20. -/
theorem LocusTable.MeetsSource.entries_eq {L : LocusTable} (h : L.MeetsSource) : L.entries = locus.entries := by
  have hsub : L.entries ⊆ locus.entries := by
    intro l hl
    obtain ⟨c, b, rfl⟩ := LocusTable.mem_entries.1 hl
    exact locus_entries_of_inUse (h.entry_inUse c b)
  have hinj : Function.Injective fun p : Fin 4 × Fin 5 => L.entry p.1 p.2 := by
    intro p q hpq
    obtain ⟨hc, hb⟩ := h.s7 p.1 p.2 q.1 q.2 hpq
    exact Prod.ext hc hb
  have hcard : L.entries.card = Fintype.card (Fin 4 × Fin 5) := Finset.card_image_of_injective _ hinj
  have hcard' : locus.entries.card ≤ Fintype.card (Fin 4 × Fin 5) := Finset.card_image_le
  exact Finset.eq_of_subset_of_card_le hsub (hcard'.trans_eq hcard.symm)

/-- The low half of a byte has the byte's bits 0 to 3. -/
theorem getLsbD_lowHalf (x : Byte) {i : Nat} (hi : i < 4) : (x.extractLsb' 0 4).getLsbD i = x.getLsbD i := by
  simp [hi]

/-- Two reports with equal locus bits show the same, for every table that meets S1 to S7. -/
theorem currentValue_congr {L : LocusTable} (h : L.MeetsSource) {r r' : Report} (h2 : r.getD 2 0 = r'.getD 2 0)
    (h3 : r.getD 3 0 = r'.getD 3 0) (h4 : (r.getD 4 0).extractLsb' 0 4 = (r'.getD 4 0).extractLsb' 0 4)
    (c : Fin 4) (b : Fin 5) : currentValue L r c b = currentValue L r' c b := by
  unfold currentValue
  rcases h.entry_inUse c b with hB | hB | ⟨hB, hi⟩ <;> rw [hB]
  · exact congrArg (fun x : Byte => x.getLsbD _) h2
  · exact congrArg (fun x : Byte => x.getLsbD _) h3
  · rw [← getLsbD_lowHalf _ hi, ← getLsbD_lowHalf _ hi]
    exact congrArg (fun x : BitVec 4 => x.getLsbD _) h4

/-- With bytes 2 and 3 and the low half of byte 4 all ones, every pair's current value is true: it is that of the report
of ones. -/
theorem currentValue_of_all_set {L : LocusTable} (h : L.MeetsSource) {r : Report}
    (h2 : r.getD 2 0 = 0xFF#8) (h3 : r.getD 3 0 = 0xFF#8) (h4 : (r.getD 4 0).extractLsb' 0 4 = 0xF#4)
    (c : Fin 4) (b : Fin 5) : currentValue L r c b = true := by
  have hones : ∀ (B : Fin 5) (i : Fin 8), ((List.replicate 5 0xFF#8).getD B.val 0#8).getLsbD i.val = true := by decide
  rw [currentValue_congr h (r' := List.replicate 5 0xFF#8) h2 h3 h4]
  exact hones _ _

/-- Settles O20: what the reports show is the same. -/
theorem reservedBitsAreIgnored : Obligations.ReservedBitsAreIgnored := by
  intro T L names v r r' t hL h h' h2 h3 h4
  have hshown : shown L r = shown L r' := shown_eq_iff.2 fun c b => by
    rw [shown_cell, currentValue_congr hL h2 h3 h4]
  rw [decodeStep_accepted L names v t h, decodeStep_accepted L names v t h', hshown]

/-- Settles O22: by counting a table's entries; a report with every locus bit set shows every pair down. -/
theorem everyTableFillsTheLocusBits : Obligations.EveryTableFillsTheLocusBits := by
  intro T L names t b0 b1 b4 tail hL
  refine ⟨fun l hl => ?_, fun hnibble => ?_⟩
  · rw [← LocusTable.mem_entries, hL.entries_eq]
    exact locus_entries_of_inUse hl
  · have hset := currentValue_of_all_set hL (r := b0 :: b1 :: 0xFF#8 :: 0xFF#8 :: b4 :: tail) rfl rfl hnibble
    rw [firstReportGivesOnlyPresses T L names _ t (by simp)]
    simp only [hset, List.filter_true]

/-- Inverting one bit of a byte inverts that bit and no other. -/
theorem getLsbD_flip (x : Byte) (i j : Fin 8) :
    (x ^^^ (1#8 <<< i.val)).getLsbD j.val = if i = j then !x.getLsbD j.val else x.getLsbD j.val := by
  have hmask : ∀ i j : Fin 8, (1#8 <<< i.val).getLsbD j.val = decide (i = j) := by decide
  rw [BitVec.getLsbD_xor, hmask]
  by_cases hij : i = j <;> simp [hij]

/-- Changing one byte of a report, seen at any offset. -/
theorem getD_modify {r : Report} {B' : Nat} (hB' : B' < r.length) (B : Nat) (f : Byte → Byte) :
    (r.modify B f).getD B' 0#8 = if B = B' then f (r.getD B' 0#8) else r.getD B' 0#8 := by
  rw [List.getD_eq_getElem?_getD, List.getD_eq_getElem?_getD, List.getElem?_modify, List.getElem?_eq_getElem hB']
  by_cases hB : B = B' <;> simp [hB]

/-- Inverting the bit at one locus is seen at that locus and at no other. -/
theorem currentValue_flip {r : Report} (h : 5 ≤ r.length) (L : LocusTable) (l : Locus) (c : Fin 4) (b : Fin 5) :
    currentValue L (r.modify l.byteOffset.val fun x => x ^^^ (1#8 <<< l.bitOffset.val)) c b =
      if l = L.entry c b then !currentValue L r c b else currentValue L r c b := by
  have hbyte : (L.entry c b).byteOffset.val < r.length := by omega
  unfold currentValue
  rw [getD_modify hbyte]
  by_cases hB : l.byteOffset = (L.entry c b).byteOffset
  · rw [if_pos (congrArg Fin.val hB), getLsbD_flip]
    have hsame : l.bitOffset = (L.entry c b).bitOffset ↔ l = L.entry c b :=
      ⟨Locus.ext_offsets hB, congrArg Locus.bitOffset⟩
    simp only [hsame]
  · have hval : l.byteOffset.val ≠ (L.entry c b).byteOffset.val := fun heq => hB (Fin.ext heq)
    rw [if_neg hval, if_neg fun heq => hB (congrArg Locus.byteOffset heq)]

/-- Settles O19: the flip is seen at one locus, which is that of one pair (S7). -/
theorem flippingALocusFlipsOnePair : Obligations.FlippingALocusFlipsOnePair := by
  intro L r c c' b b' hL h
  have hpair : L.entry c b = L.entry c' b' ↔ c' = c ∧ b' = b := by
    constructor
    · intro heq
      obtain ⟨hc, hb⟩ := hL.s7 c b c' b' heq
      exact ⟨hc.symm, hb.symm⟩
    · rintro ⟨rfl, rfl⟩
      rfl
  rw [currentValue_flip h]
  simp only [hpair]

/-! ## The result of DECODE as signals -/

/-- The pair of a lane is the pair whose lane it is (R12). -/
@[simp] theorem flatIndex_pair (k : Fin 20) : flatIndex (controllerOf k) (buttonOf k) = k := by
  apply Fin.ext
  simp only [flatIndex, controllerOf, buttonOf]
  omega

theorem edge_eq_pressed_iff {prev cur : Bool} : edge prev cur = some .pressed ↔ prev = false ∧ cur = true := by
  revert prev cur; decide

theorem edge_eq_released_iff {prev cur : Bool} : edge prev cur = some .released ↔ prev = true ∧ cur = false := by
  revert prev cur; decide

section
variable {T : Type} (names : Fin 5 → String) (v w : Snapshot) (t : T)

/-- The events between two snapshots, lane by lane (R64). -/
theorem eventsBetween_lanes : eventsBetween names v w t =
    (List.finRange 20).filterMap fun k => eventAt names v w t (controllerOf k, buttonOf k) := by
  rw [eventsBetween, pairs_eq_flat, List.filterMap_map]
  rfl

/-- A lane of PRESS is a pair that is newly down (R46, R63). -/
theorem press_lane (k : Fin 20) : (decodePorts (.decoded (eventsBetween names v w t)) t).press.getLsbD k.val =
    decide (edge (v.cell (controllerOf k) (buttonOf k)) (w.cell (controllerOf k) (buttonOf k)) = some .pressed) := by
  simp [decodePorts, hasEventAt_eventsBetween]

/-- A lane of RELEASE is a pair that is newly up (R46, R63). -/
theorem release_lane (k : Fin 20) : (decodePorts (.decoded (eventsBetween names v w t)) t).release.getLsbD k.val =
    decide (edge (v.cell (controllerOf k) (buttonOf k)) (w.cell (controllerOf k) (buttonOf k)) = some .released) := by
  simp [decodePorts, hasEventAt_eventsBetween]

/-- Vectors of 20 bits with equal lanes are equal. -/
theorem eq_of_lanes {x y : BitVec 20} (h : ∀ k : Fin 20, x.getLsbD k.val = y.getLsbD k.val) : x = y :=
  BitVec.eq_of_getLsbD_eq fun k hk => h ⟨k, hk⟩

/-- PRESS in vector form (R68). -/
theorem press_eq_pressV :
    (decodePorts (.decoded (eventsBetween names v w t)) t).press = pressV (snapV v) (snapV w) := by
  refine eq_of_lanes fun k => ?_
  rw [press_lane, pressV, BitVec.getLsbD_and, BitVec.getLsbD_not, snapV_lane, snapV_lane]
  simp [edge_eq_pressed_iff, Bool.and_comm]

/-- RELEASE in vector form (R68). -/
theorem release_eq_releaseV :
    (decodePorts (.decoded (eventsBetween names v w t)) t).release = releaseV (snapV v) (snapV w) := by
  refine eq_of_lanes fun k => ?_
  rw [release_lane, releaseV, BitVec.getLsbD_and, BitVec.getLsbD_not, snapV_lane, snapV_lane]
  simp [edge_eq_released_iff, Bool.and_comm]

/-- A pair has an event exactly when its lane of CHANGED is set (R68). -/
theorem eventAt_isSome_eq_changedV (k : Fin 20) : (eventAt names v w t (controllerOf k, buttonOf k)).isSome =
    (changedV (snapV v) (snapV w)).getLsbD k.val := by
  have hedge : ∀ prev cur : Bool, (edge prev cur).isSome = (cur ^^ prev) := by decide
  rw [eventAt, Option.isSome_map, hedge, changedV, BitVec.getLsbD_xor, snapV_lane, snapV_lane]

/-- There are as many events as ones in CHANGED (R68). -/
theorem eventsBetween_length : (eventsBetween names v w t).length =
    ((List.finRange 20).filter fun k => (changedV (snapV v) (snapV w)).getLsbD k.val).length := by
  rw [eventsBetween_lanes, List.length_filterMap_eq_countP, List.countP_eq_length_filter]
  simp only [eventAt_isSome_eq_changedV]

/-- The event the scan reads at a lane is that of the lane's pair (R46). -/
theorem laneEvent_eq_eventAt (k : Fin 20) :
    laneEvent names (decodePorts (.decoded (eventsBetween names v w t)) t) k =
      eventAt names v w t (controllerOf k, buttonOf k) := by
  rw [laneEvent, press_lane, release_lane, eventAt]
  rcases edge (v.cell (controllerOf k) (buttonOf k)) (w.cell (controllerOf k) (buttonOf k)) with _ | _ | _ <;>
    simp [decodePorts]

/-- The upward scan of the signals recovers the events (R46). -/
theorem scanPorts_decodePorts : scanPorts names (decodePorts (.decoded (eventsBetween names v w t)) t) =
    .decoded (eventsBetween names v w t) := by
  have hlanes := List.filterMap_congr fun k (_ : k ∈ List.finRange 20) => laneEvent_eq_eventAt names v w t k
  exact congrArg DecodeResult.decoded (hlanes.trans (eventsBetween_lanes names v w t).symm)

/-- No lane is set both in PRESS and in RELEASE (R46). -/
theorem press_and_release : pressV (snapV v) (snapV w) &&& releaseV (snapV v) (snapV w) = 0#20 := by
  refine eq_of_lanes fun k => ?_
  simp only [pressV, releaseV, BitVec.getLsbD_and, BitVec.getLsbD_not]
  cases (snapV w).getLsbD k.val <;> simp

end

theorem actionBit_eq (a : Action) : actionBit a = if a = .pressed then 1#1 else 0#1 := by
  cases a <;> rfl

/-- The action bit of an event is the PRESS bit of its pair (R46, D7). -/
theorem actionBit_of_mem {T : Type} {names : Fin 5 → String} {v w : Snapshot} {t : T} {e : Event T}
    (he : e ∈ eventsBetween names v w t) : actionBit e.action = BitVec.ofBool
      ((decodePorts (.decoded (eventsBetween names v w t)) t).press.getLsbD (flatIndex e.controller e.button).val) := by
  obtain ⟨hedge, -, -⟩ := mem_eventsBetween.1 he
  rw [press_lane, controllerOf_flatIndex, buttonOf_flatIndex, hedge]
  cases e.action <;> rfl

/-- Settles O24: the lanes of a DECODE's signals are the edges of its pairs; a rejection is its own signal. -/
theorem portScanRecoversTheResult : Obligations.PortScanRecoversTheResult := by
  intro T L names v r t
  rcases Nat.lt_or_ge r.length 5 with hshort | hlong
  · rw [decodeStep_short hshort]
    exact ⟨rfl, BitVec.zero_and, nofun, actionBit_eq⟩
  · rw [decodeStep_accepted L names v t hlong]
    refine ⟨scanPorts_decodePorts names v _ t, ?lanes, fun es hes e he => ?action, actionBit_eq⟩
    case lanes =>
      rw [press_eq_pressV, release_eq_releaseV]
      exact press_and_release v _
    case action =>
      obtain rfl := DecodeResult.decoded.inj hes
      exact actionBit_of_mem he

/-! ## CURV, for the adopted table -/

/-- A lane of CURV is a bit of byte 2, 3 or 4 (R40). -/
theorem curV_lane (f : Vector Byte 5) (k : Fin 20) :
    (curV f).getLsbD k.val = (f[2 + k.val / 8]'(by omega)).getLsbD (k.val % 8) := by
  have hmask : ∀ k : Fin 20, (0xFFFFF#24).getLsbD k.val = true := by decide
  rw [curV, BitVec.getLsbD_setWidth, BitVec.getLsbD_and, hmask]
  fin_cases k <;> simp

theorem firstFive_getElem (r : Report) {i : Nat} (hi : i < 5) : (firstFive r)[i] = r.getD i 0#8 := by
  match i with
  | 0 | 1 | 2 | 3 | 4 => rfl

/-- Under the adopted table lane `k` shows bit `k mod 8` of byte `2 + k div 8` (R39). -/
theorem currentValue_locus (r : Report) (k : Fin 20) : currentValue locus r (controllerOf k) (buttonOf k) =
    (r.getD (2 + k.val / 8) 0#8).getLsbD (k.val % 8) := by
  obtain ⟨-, hformula⟩ := adoptedTableMeetsTheSource
  obtain ⟨hbyte, hbit⟩ := hformula (controllerOf k) (buttonOf k)
  have hflat : 5 * (controllerOf k).val + (buttonOf k).val = k.val := congrArg Fin.val (flatIndex_pair k)
  rw [currentValue, hbyte, hbit, hflat]

/-- What a report shows under the adopted table is CURV of its first five bytes (R40, R68). -/
theorem snapV_shown_locus (r : Report) : snapV (shown locus r) = curV (firstFive r) := by
  refine eq_of_lanes fun k => ?_
  rw [snapV_lane, shown_cell, currentValue_locus, curV_lane, firstFive_getElem]

/-- Settles O23: PRESS, RELEASE and the number of events lane by lane, and the new snapshot is what the report shows. -/
theorem decodeIsTheVectorForm : Obligations.DecodeIsTheVectorForm := by
  intro T names v r t h
  refine ⟨fun L v' es hstep => ?_, ?_⟩
  · rw [decodeStep_accepted L names v t h] at hstep
    obtain ⟨rfl, hes⟩ := Prod.mk.inj hstep
    obtain rfl := DecodeResult.decoded.inj hes
    refine ⟨?_, eventsBetween_length names v _ t⟩
    rw [← press_eq_pressV names v _ t, ← release_eq_releaseV names v _ t]
    rfl
  · rw [decodeStep_accepted locus names v t h, snapV_shown_locus]

/-! ## ENCODE -/

/-- Dropping the keys that are no channel lights and unlights no channel (R82). -/
theorem isLit_filter_channels (m : LedState) (N : Fin 4) :
    isLit (m.filter fun e => decide (∃ N : Fin 4, e.1 = .integer N.val)) N = isLit m N := by
  have hlookup := lookup_filter_of_keeps m (fun e => decide (∃ N : Fin 4, e.1 = .integer N.val)) (channelKey N)
    fun _ => decide_eq_true ⟨N, rfl⟩
  rw [isLit, isLit, hlookup]

/-- Settles O30: the dropped entries light no channel. -/
theorem foreignKeysAreIgnored : Obligations.ForeignKeysAreIgnored :=
  fun s m => exec_encode_congr (fun N => (isLit_filter_channels m N).symm) s

/-- Listing the entries in another order keeps a map a map. -/
theorem wf_perm {m m' : LedState} (h : LedState.wf m = true) (hperm : m.Perm m') : LedState.wf m' = true :=
  decide_eq_true ((hperm.filterMap _).nodup_iff.1 (of_decide_eq_true h))

/-- In a map a channel is lit exactly when its entry with value true is listed. -/
theorem isLit_iff_mem {m : LedState} (h : LedState.wf m = true) (N : Fin 4) :
    isLit m N = true ↔ (Number.integer N.val, true) ∈ m :=
  isLit_eq_true_iff.trans (lookup_eq_some_iff_mem m h N.val true)

/-- Settles O31: the lit channels are those whose entries are listed, in whatever order. -/
theorem encodeReadsAMap : Obligations.EncodeReadsAMap := by
  intro s m m' h hperm
  refine exec_encode_congr (fun N => ?_) s
  rw [Bool.eq_iff_iff, isLit_iff_mem h, isLit_iff_mem (wf_perm h hperm), hperm.mem_iff]

/-- Entries of distinct channels make a map. -/
theorem wf_of_channels {l : List (Fin 4)} (hl : l.Nodup) (val : Fin 4 → Bool) :
    LedState.wf (l.map fun N => (channelKey N, val N)) = true := by
  have hkeys : (l.map fun N => (channelKey N, val N)).filterMap (fun e => e.1.toInt?) =
      l.map fun N => (N.val : Int) := by
    rw [List.filterMap_map]
    exact congrFun List.filterMap_eq_map l
  have hinj : Function.Injective fun N : Fin 4 => (N.val : Int) := fun N M h => Fin.ext (Int.ofNat_inj.1 h)
  exact decide_eq_true (hkeys ▸ hl.map hinj)

/-- A total LED state is a map. -/
theorem wf_ledOf (lit : Fin 4 → Bool) : LedState.wf (ledOf lit) = true :=
  wf_of_channels (by decide) lit

theorem channelByte_injective : Function.Injective channelByte := by
  decide

/-- Two commands are equal exactly when the same channels are lit. -/
theorem commandOf_eq_iff {m m' : LedState} : commandOf m = commandOf m' ↔ ∀ N, isLit m N = isLit m' N := by
  refine ⟨fun h N => channelByte_injective ?_, commandOf_congr⟩
  rw [← commandOf_channel, ← commandOf_channel, h]

theorem litV_eq_iff {m m' : LedState} : litV m = litV m' ↔ ∀ N, isLit m N = isLit m' N := by
  constructor
  · intro h N
    rw [← litV_getLsbD, h, litV_getLsbD]
  · intro h
    exact congrArg BitVec.ofFnLE (funext h)

/-- A command of the format is that of the total LED state that lights the channels whose byte is 0xFF. -/
theorem commandOf_ledOf_of_commandLegal {bytes : Vector Byte 6} (h : commandLegal bytes) :
    commandOf (ledOf fun N => bytes[2 + N.val] == 0xFF#8) = bytes := by
  obtain ⟨hbyte0, hbyte1, hchannels⟩ := h
  have hbyte (N : Fin 4) : channelByte (bytes[2 + N.val] == 0xFF#8) = bytes[2 + N.val] := by
    rcases hchannels N with h | h <;> rw [h] <;> rfl
  refine Vector.ext fun i hi => ?_
  obtain rfl | rfl | ⟨N, rfl⟩ : i = 0 ∨ i = 1 ∨ ∃ N : Fin 4, i = 2 + N.val := by
    by_cases htwo : i < 2
    · omega
    · exact .inr (.inr ⟨⟨i - 2, by omega⟩, by simp; omega⟩)
  · exact hbyte0.symm
  · exact hbyte1.symm
  · rw [commandOf_channel, isLit_ledOf, hbyte]

/-- Settles O32: a command is its header and one byte a channel, 0xFF where LIT's bit is set. -/
theorem commandsAreTheSixteen : Obligations.CommandsAreTheSixteen :=
  ⟨commandLegal_commandOf, fun _ h => ⟨_, wf_ledOf _, commandOf_ledOf_of_commandLegal h⟩,
    fun _ _ => commandOf_eq_iff.trans litV_eq_iff.symm⟩

/-- A channel byte is LIT's bit replicated eight times (R84). -/
theorem channelByte_eq_fill (m : LedState) (N : Fin 4) :
    channelByte (isLit m N) = BitVec.fill 8 ((litV m).getLsbD N.val) := by
  rw [litV_getLsbD]
  cases isLit m N <;> rfl

/-- The two header bytes under the channel bytes are the zero half-word. -/
theorem append_header (x : BitVec 32) : (x ++ headerByte ++ headerByte : BitVec 48) = x ++ 0x0000#16 := by
  exact BitVec.append_assoc

/-- Settles O33: the four channel bytes, each its own fill, over the two header bytes. -/
theorem commandIsTheMultiplexer : Obligations.CommandIsTheMultiplexer := by
  intro m
  have hword : cmdWord (commandOf m) = channelByte (isLit m 3) ++ channelByte (isLit m 2) ++ channelByte (isLit m 1) ++
      channelByte (isLit m 0) ++ headerByte ++ headerByte := rfl
  rw [hword, append_header]
  simp only [channelByte_eq_fill]
  rfl

/-- The LED state at the ports has the entries of the channels that are present (D14). -/
theorem ledOfPorts_eq_map (present val : BitVec 4) : ledOfPorts present val =
    (channels.filter fun N => present.getLsbD N.val).map fun N => (channelKey N, val.getLsbD N.val) := by
  rw [← List.filterMap_eq_map, List.filterMap_filter]
  rfl

/-- The ports present a map. -/
theorem wf_ledOfPorts (present val : BitVec 4) : LedState.wf (ledOfPorts present val) = true := by
  have hchannels : channels.Nodup := by decide
  rw [ledOfPorts_eq_map]
  exact wf_of_channels (hchannels.filter _) _

theorem mem_ledOfPorts {present val : BitVec 4} {e : Number × Bool} : e ∈ ledOfPorts present val ↔
    ∃ N : Fin 4, present.getLsbD N.val = true ∧ (channelKey N, val.getLsbD N.val) = e := by
  simp [ledOfPorts_eq_map, channels]

/-- A channel at the ports is lit where it is both present and true (D14). -/
theorem isLit_ledOfPorts (present val : BitVec 4) (N : Fin 4) :
    isLit (ledOfPorts present val) N = (present.getLsbD N.val && val.getLsbD N.val) := by
  rw [Bool.eq_iff_iff, isLit_iff_mem (wf_ledOfPorts present val), mem_ledOfPorts, Bool.and_eq_true]
  constructor
  · rintro ⟨M, hpresent, hentry⟩
    obtain ⟨hkey, hval⟩ := Prod.mk.inj hentry
    obtain rfl := channelKey_injective (a₂ := N) hkey
    exact ⟨hpresent, hval⟩
  · rintro ⟨hpresent, hval⟩
    exact ⟨N, hpresent, by rw [hval]; rfl⟩

/-- Settles O34: LIT bit by bit. -/
theorem portLedStateIsPresentAndTrue : Obligations.PortLedStateIsPresentAndTrue := by
  intro present val
  refine BitVec.eq_of_getLsbD_eq fun i hi => ?_
  rw [BitVec.getLsbD_and]
  exact (litV_getLsbD _ ⟨i, hi⟩).trans (isLit_ledOfPorts present val ⟨i, hi⟩)

/-! ## Constructed LED states and channel numbers -/

/-- Settles O42: a constructed LED state lights its pattern. -/
theorem constructedStatesEncodeAsLit : Obligations.ConstructedStatesEncodeAsLit := by
  refine fun lit => ⟨ledLegal_ledOf lit, wf_ledOf lit, fun N => ?_⟩
  rw [commandOf_channel, isLit_ledOf, channelByte]

/-- Settles O38: the two operands' patterns, channel by channel. -/
theorem alternatingLightsOneParity : Obligations.AlternatingLightsOneParity := by
  have heven : litV (ledOf (parityPattern 0)) = 0b0101#4 := litV_ledOf_eq (by decide)
  have hodd : litV (ledOf (parityPattern 1)) = 0b1010#4 := litV_ledOf_eq (by decide)
  refine ⟨_, _, ledOf_entries (parityPattern 0), ledOf_entries (parityPattern 1), exec_alternating 0,
    exec_alternating 1, by decide, heven, ?complement, ?sourceExample⟩
  case complement => rw [heven, hodd]; rfl
  case sourceExample => decide

/-- Exactly the integers 1 to 4 are channel numbers (R97). -/
theorem isChannelNumber_integer {n : Int} : isChannelNumber (.integer n) = true ↔ 1 ≤ n ∧ n ≤ 4 := by
  rw [isChannelNumber, Bool.and_eq_true, decide_eq_true_iff, decide_eq_true_iff]

theorem isChannelNumber_iff {x : Number} :
    isChannelNumber x = true ↔ x = .integer 1 ∨ x = .integer 2 ∨ x = .integer 3 ∨ x = .integer 4 := by
  cases x with
  | integer n =>
    simp only [isChannelNumber_integer, Number.integer.injEq]
    omega
  | notInteger => simp [isChannelNumber]

/-- The low bits of a number are zero exactly when its remainder is. -/
theorem mod_two_pow_eq_zero_iff {w : Nat} (v : BitVec w) (f : Nat) :
    v.toNat % 2 ^ f = 0 ↔ ∀ j, j < f → v.getLsbD j = false := by
  have hbit (j : Nat) : (v.toNat % 2 ^ f).testBit j = (decide (j < f) && v.getLsbD j) := Nat.testBit_mod_two_pow _ _ _
  constructor
  · intro h j hj
    simpa [h, hj] using (hbit j).symm
  · intro h
    refine Nat.eq_of_testBit_eq fun j => ?_
    rw [hbit, Nat.zero_testBit]
    by_cases hj : j < f
    · rw [h j hj, Bool.and_false]
    · rw [decide_eq_false hj, Bool.false_and]

/-- Settles O39: the port reads an integer exactly when the fraction is zero, and no other value is a channel number. -/
theorem channelNumbersAreOneToFour : Obligations.ChannelNumbersAreOneToFour := by
  refine ⟨fun s x => ⟨_, exec_isValidChannelNumber x s, isChannelNumber_iff⟩, fun i f v => ?_⟩
  rw [numberOfFixed, ← mod_two_pow_eq_zero_iff]
  split
  case isTrue hfrac => rw [isChannelNumber_integer, and_iff_right hfrac]
  case isFalse hfrac => exact ⟨nofun, fun h => absurd h.1 hfrac⟩

/-- Settles O41: 4 is out of SINGLE's range; 0 is its first channel. -/
theorem numbersAndIndicesDiffer : Obligations.NumbersAndIndicesDiffer := by
  refine ⟨isChannelNumber_integer.2 (by decide), isChannelNumber_out_of_range (.inl (by decide)), fun s => ⟨?_, ?_⟩⟩
  · rw [exec_single, exec_allOff, singlePattern_out_of_range (.inr (by decide))]
  · exact ⟨_, exec_single 0 s, rfl⟩

end Sys2Proof.Machine
